-- ==== Sys2Proof/Word.lean ====
section
/-! DEFINITION. The word types and the index spaces of the bank driver (spec 00_scope.md R7, R9; 20_memory.md R60). -/

namespace Sys2Proof

/-- A command word (R90). -/
abbrev CmdWord := BitVec 32

/-- A response word `{err, value[31:0]}` (R96). -/
abbrev RspWord := BitVec 33

/-- An event word `{kind, id[7:0], value[15:0]}` (R98). -/
abbrev EvtWord := BitVec 25

/-- An 8-bit field of a command or a port byte (R62, R90). -/
abbrev Byte := BitVec 8

/-- The 16 bits of a bank, one per channel: a shadow, a shift stage, an output frame (R22, R34); also a cached value (R29). -/
abbrev Frame := BitVec 16

/-- The level of one line: `true` is high, 1 (R10). -/
abbrev Level := Bool

/-- A bank, numbered from 0: bank id `b` of the spec is `b - 1` here (R7, R60). -/
abbrev BankId := Fin 6

/-- A channel of a bank, 0 to 15 (R7, R60). -/
abbrev ChanId := Fin 16

/-- A logical pin, 0 to 95 (R7, R60). -/
abbrev PinId := Fin 96

/-- A FirmataPort, 0 to 11 (R7, R60). -/
abbrev PortId := Fin 12

/-- The bank id the spec gives a bank: 1 to 6. -/
def bankNumber (b : BankId) : Nat := b.val + 1

/-- The two address buses (R7, R64). -/
inductive Bus where
  | primary
  | secondary
  deriving DecidableEq, Repr

/-- The five modes of R93.  For a pin, `disabled` (code 0) is the source's "Unconfigured" (R28). -/
inductive Mode where
  | disabled
  | analogIn
  | digitalIn
  | digitalInPullup
  | digitalOut
  deriving DecidableEq, Repr

/-- Where a pin lies: one row of `PINMAP` (R8, R61, R62). -/
structure Place where
  /-- `bankOf(p)`. -/
  bank : BankId
  /-- `chanOf(p)`. -/
  chan : ChanId
  /-- `portOf(p)`. -/
  port : PortId
  /-- `bitOf(p)`. -/
  bit : Fin 8
  deriving DecidableEq, Repr

end Sys2Proof
end

