-- ==== Sys2Proof/Config.lean ====
section
/-! DEFINITION. The parameters a model takes as arguments (spec 00_scope.md R8) and the free values of the model
(93_implementation_defined.md U1, U2, U4, U8, U11).  A constant declared `opaque` has no value a proof can see. -/

namespace Sys2Proof

/-- The implementation parameters, one field per row of R8 (U13, U14): every operation that depends on one takes them as an
argument.  This hardware's values are `Config.hw` in Machine/Hardware.lean (log 11). -/
structure Params where
  /-- `PINMAP`: pin index to (bank, channel, port, bit). -/
  pinMap : PinId → Place
  /-- `BUSMAP`: bank to bus. -/
  busMap : BankId → Bus
  /-- `BANK_CAP[b]`: the modes bank `b` accepts in `CFG`, a list read as a set. -/
  bankCap : BankId → List Mode
  /-- `ALLOWED[p]`: the modes pin `p` accepts in `SETMODE`, a list read as a set. -/
  allowed : PinId → List Mode
  /-- `BANK_MODE_INIT[b]`: the mode of bank `b` after power-on. -/
  bankModeInit : BankId → Mode
  /-- `EXCL[p]`: pin `p` is administratively excluded. -/
  excl : PinId → Bool
  /-- `JUMPER[b]`, meaningful for banks 4 to 6: the mode the operator physically wired. -/
  jumper : BankId → Mode
  /-- `AW` less one, so that `AW` lies between 1 and 16. -/
  awMinusOne : Fin 16

/-- `AW`: the width in bits of a raw analog sample, 1 to 16 (R8). -/
def Params.AW (P : Params) : Nat := P.awMinusOne.val + 1

/-- What stands behind `AW` of this hardware: R8 leaves it OPEN between 1 and 16, so nothing here fixes it (log 4). -/
opaque Config.awMinusOne : Fin 16

/-- The unspecified contents of `SR[b]` after power-on (R34, R38, U2; log 5). -/
opaque Config.powerUpSR : BankId → Frame

/-- The unspecified contents of `Q[b]` after power-on (R34, R38, U2; log 5). -/
opaque Config.powerUpQ : BankId → Frame

/-- `Sample(b)` when no answer of the environment is listed in the state: a free input (R76, U1; log 3). -/
opaque Config.freeSample : Nat → Level

/-- The raw conversion behind `ASample(b)` when no answer of the environment is listed (R76, U1; log 3). -/
opaque Config.freeAnalog : Nat → BitVec 16

/-- The bit shifted into `SR[b]` while the controller does not drive the line (R131, U11; log 6). -/
opaque Config.freeBit : Nat → Level

/-- The contents of `SR[b]` after `RST` cut a write to bank `b` short (R263, U8; log 7). -/
opaque Config.freeFrame : Nat → Frame

end Sys2Proof
end

