-- ==== Sys2Proof/Syntax.lean ====
section
/-! DEFINITION. The fifteen commands (spec 30_encoding.md R94), one constructor per row of the opcode table, with the operand
fields each one uses.  An operand is the field read as an unsigned integer (R91); the byte of `WRPORT` is used bit by bit. -/

namespace Sys2Proof

/-- The commands of R94. -/
inductive Instr where
  /-- `CFG bank, mode` (R121). -/
  | cfg (bank mode : Nat)
  /-- `WRCH bank, channel, value` (R123). -/
  | wrch (bank chan value : Nat)
  /-- `RDD bank, channel` (R126). -/
  | rdd (bank chan : Nat)
  /-- `RDA bank, channel` (R128). -/
  | rda (bank chan : Nat)
  /-- `QBANK bank` (R129). -/
  | qbank (bank : Nat)
  /-- `RESET` (R171). -/
  | reset
  /-- `SETMODE pin, mode` (R174). -/
  | setmode (pin mode : Nat)
  /-- `WRPORT port, byte` (R176). -/
  | wrport (port : Nat) (byte : Byte)
  /-- `WRPIN pin, value` (R177). -/
  | wrpin (pin value : Nat)
  /-- `SAMPD port, force` (R178). -/
  | sampd (port force : Nat)
  /-- `SAMPA pin` (R179). -/
  | sampa (pin : Nat)
  /-- `REPD port, enable` (R180). -/
  | repd (port enable : Nat)
  /-- `REPA pin, enable` (R181). -/
  | repa (pin enable : Nat)
  /-- `QPIN pin` (R182). -/
  | qpin (pin : Nat)
  /-- `QPORT port` (R183). -/
  | qport (port : Nat)
  deriving DecidableEq, Repr

end Sys2Proof
end

