-- ==== Sys2Proof/WellFormed.lean ====
section
/-! DEFINITION. The terms of `Instr` that are commands of the hardware: every operand fits its 8-bit field
(spec 30_encoding.md R90, R91).  Out-of-range indices are well formed: R91 makes the fields wide on purpose. -/

namespace Sys2Proof

/-- The operand fits an 8-bit field (R91). -/
def fitsField (n : Nat) : Bool := decide (n < 256)

/-- Every operand of the command fits its field. -/
def Instr.wellFormed : Instr → Bool
  | .cfg bank mode => fitsField bank && fitsField mode
  | .wrch bank chan value => fitsField bank && (fitsField chan && fitsField value)
  | .rdd bank chan => fitsField bank && fitsField chan
  | .rda bank chan => fitsField bank && fitsField chan
  | .qbank bank => fitsField bank
  | .reset => true
  | .setmode pin mode => fitsField pin && fitsField mode
  | .wrport port _ => fitsField port
  | .wrpin pin value => fitsField pin && fitsField value
  | .sampd port force => fitsField port && fitsField force
  | .sampa pin => fitsField pin
  | .repd port enable => fitsField port && fitsField enable
  | .repa pin enable => fitsField pin && fitsField enable
  | .qpin pin => fitsField pin
  | .qport port => fitsField port

end Sys2Proof
end

