-- ==== Sys2Proof/Decode.lean ====
section
/-! DEFINITION. Decoding and encoding of command words (spec 30_encoding.md R90 to R95, R100 to R102). -/

namespace Sys2Proof

/-- The opcodes of R94. -/
inductive Opcode where
  | cfg | wrch | rdd | rda | qbank
  | reset | setmode | wrport | wrpin | sampd | sampa | repd | repa | qpin | qport
  deriving DecidableEq, Repr

/-- The `op` byte of an opcode (R94). -/
def Opcode.code : Opcode → Byte
  | .cfg => 0x10
  | .wrch => 0x11
  | .rdd => 0x12
  | .rda => 0x13
  | .qbank => 0x14
  | .reset => 0x20
  | .setmode => 0x21
  | .wrport => 0x22
  | .wrpin => 0x23
  | .sampd => 0x24
  | .sampa => 0x25
  | .repd => 0x26
  | .repa => 0x27
  | .qpin => 0x28
  | .qport => 0x29

/-- The rows of R94, in the table's order. -/
def opcodes : List Opcode :=
  [.cfg, .wrch, .rdd, .rda, .qbank,
   .reset, .setmode, .wrport, .wrpin, .sampd, .sampa, .repd, .repa, .qpin, .qport]

/-- The row whose `op` byte is the given one; none for a reserved opcode (R94, R95). -/
def opcodeOf (op : Byte) : Option Opcode := opcodes.find? (fun o => o.code == op)

/-- Bits 31:24 (R90). -/
def opField (w : CmdWord) : Byte := w.extractLsb' 24 8

/-- Bits 23:16 (R90). -/
def aField (w : CmdWord) : Byte := w.extractLsb' 16 8

/-- Bits 15:8 (R90). -/
def bField (w : CmdWord) : Byte := w.extractLsb' 8 8

/-- Bits 7:0 (R90). -/
def cField (w : CmdWord) : Byte := w.extractLsb' 0 8

/-- The command an opcode makes of its three fields; a field the opcode does not use is ignored (R91, R94). -/
def commandOf (o : Opcode) (a b c : Byte) : Instr :=
  match o with
  | .cfg => .cfg a.toNat b.toNat
  | .wrch => .wrch a.toNat b.toNat c.toNat
  | .rdd => .rdd a.toNat b.toNat
  | .rda => .rda a.toNat b.toNat
  | .qbank => .qbank a.toNat
  | .reset => .reset
  | .setmode => .setmode a.toNat b.toNat
  | .wrport => .wrport a.toNat b
  | .wrpin => .wrpin a.toNat b.toNat
  | .sampd => .sampd a.toNat b.toNat
  | .sampa => .sampa a.toNat
  | .repd => .repd a.toNat b.toNat
  | .repa => .repa a.toNat b.toNat
  | .qpin => .qpin a.toNat
  | .qport => .qport a.toNat

/-- Why a word is no command of R94. -/
inductive DecodeReject where
  /-- The opcode is reserved (R95). -/
  | reservedOpcode (op : Byte)
  deriving DecidableEq, Repr

/-- Reads a command word; total on all 32-bit words (R102). -/
def decode (w : CmdWord) : Except DecodeReject Instr :=
  match opcodeOf (opField w) with
  | some o => .ok (commandOf o (aField w) (bField w) (cField w))
  | none => .error (.reservedOpcode (opField w))

/-- The word with the given four fields, `{op, a, b, c}` (R90). -/
def mkWord (op a b c : Byte) : CmdWord := op ++ a ++ b ++ c

/-- An operand as its 8-bit field (R91). -/
def operandField (n : Nat) : Byte := BitVec.ofNat 8 n

/-- The opcode of a command (R94). -/
def Instr.opcode : Instr → Opcode
  | .cfg _ _ => .cfg
  | .wrch _ _ _ => .wrch
  | .rdd _ _ => .rdd
  | .rda _ _ => .rda
  | .qbank _ => .qbank
  | .reset => .reset
  | .setmode _ _ => .setmode
  | .wrport _ _ => .wrport
  | .wrpin _ _ => .wrpin
  | .sampd _ _ => .sampd
  | .sampa _ => .sampa
  | .repd _ _ => .repd
  | .repa _ _ => .repa
  | .qpin _ => .qpin
  | .qport _ => .qport

/-- The three operand fields of a command; an unused field is 0 (R100). -/
def Instr.fields : Instr → Byte × Byte × Byte
  | .cfg bank mode => (operandField bank, operandField mode, 0)
  | .wrch bank chan value => (operandField bank, operandField chan, operandField value)
  | .rdd bank chan => (operandField bank, operandField chan, 0)
  | .rda bank chan => (operandField bank, operandField chan, 0)
  | .qbank bank => (operandField bank, 0, 0)
  | .reset => (0, 0, 0)
  | .setmode pin mode => (operandField pin, operandField mode, 0)
  | .wrport port byte => (operandField port, byte, 0)
  | .wrpin pin value => (operandField pin, operandField value, 0)
  | .sampd port force => (operandField port, operandField force, 0)
  | .sampa pin => (operandField pin, 0, 0)
  | .repd port enable => (operandField port, operandField enable, 0)
  | .repa pin enable => (operandField pin, operandField enable, 0)
  | .qpin pin => (operandField pin, 0, 0)
  | .qport port => (operandField port, 0, 0)

/-- The command word of a command (R90, R94, R100). -/
def encode (i : Instr) : CmdWord :=
  mkWord i.opcode.code i.fields.1 i.fields.2.1 i.fields.2.2

/-- What `decode` reads from a row of `nbits` bits, every bit above them 0: the host's question. -/
def decodeTableWord (nbits w : Nat) : Option Instr :=
  match decode (BitVec.ofNat 32 (w % 2 ^ nbits)) with
  | .ok i => some i
  | .error _ => none

end Sys2Proof
end

