-- ==== Sys2Proof/Machine/Hardware.lean ====
section
/-! DEFINITION. This hardware's value of each parameter (spec 00_scope.md R8; 10_state.md R27; 20_memory.md R61, R62, R64).  The
operations take the parameters as an argument; the machine of `exec`, `step` and `State.reset` is theirs at these values (log 11). -/

namespace Sys2Proof

/-- `PINMAP`: bank id `p / 16 + 1`, channel `p mod 16`, port `p / 8`, bit `p mod 8` (R61, R62). -/
def Config.pinMap (p : PinId) : Place where
  bank := ⟨p.val / 16, by omega⟩
  chan := ⟨p.val % 16, by omega⟩
  port := ⟨p.val / 8, by omega⟩
  bit := ⟨p.val % 8, by omega⟩

/-- `BUSMAP`: banks 1 to 3 sit on the Primary bus, banks 4 to 6 on the Secondary one (R8, R64, R161). -/
def Config.busMap (b : BankId) : Bus :=
  if bankNumber b ≤ 3 then .primary else .secondary

/-- `BANK_CAP[b]`: the modes `CFG` accepts for a bank (R8, R121). -/
def Config.bankCap (b : BankId) : List Mode :=
  match bankNumber b with
  | 1 => [.disabled, .analogIn]
  | 6 => [.disabled, .digitalOut]
  | _ => [.disabled, .digitalIn, .digitalInPullup]

/-- `ALLOWED[p]`: the modes `SETMODE` accepts for a pin (R27). -/
def Config.allowed (p : PinId) : List Mode :=
  if p.val ≤ 15 then [.analogIn]
  else if p.val ≤ 79 then [.digitalIn, .digitalInPullup]
  else [.digitalOut]

/-- `BANK_MODE_INIT[b]`: the mode of a bank after power-on (R8, R241). -/
def Config.bankModeInit (b : BankId) : Mode :=
  match bankNumber b with
  | 1 => .analogIn
  | 6 => .digitalOut
  | _ => .digitalIn

/-- `EXCL[p]`: the pin is administratively excluded; 0 for every pin of this hardware (R8, R30). -/
def Config.excl (_p : PinId) : Bool := false

/-- `JUMPER[b]`, meaningful for banks 4 to 6: the mode the operator physically wired (R8, R25). -/
def Config.jumper (b : BankId) : Mode := Config.bankModeInit b

/-- This hardware's parameters; `AW` is open and stays a free value (R8, log 4). -/
def Config.hw : Params where
  pinMap := Config.pinMap
  busMap := Config.busMap
  bankCap := Config.bankCap
  allowed := Config.allowed
  bankModeInit := Config.bankModeInit
  excl := Config.excl
  jumper := Config.jumper
  awMinusOne := Config.awMinusOne

/-- `AW` of this hardware (R8). -/
def Config.AW : Nat := Config.hw.AW

end Sys2Proof
end

