-- ==== Sys2Proof/Machine/Operands.lean ====
section
/-! DEFINITION. The operand forms: range checks, one-bit operands, mode codes (spec 20_memory.md R60, R68; 30_encoding.md R91 to
R93; 40_bank_driver.md R120), and the maps between pins, ports, banks and channels (20_memory.md R61 to R64): the columns of `PINMAP`
and `BUSMAP`, and the indices the pseudocode of R172, R176, R178 and R179 computes by itself. -/

namespace Sys2Proof.Machine

/-- A bank id operand: valid when 1 to 6 (R120). -/
def bankOperand (n : Nat) : Option BankId :=
  if h : 1 ≤ n ∧ n ≤ 6 then some ⟨n - 1, by omega⟩ else none

/-- A channel operand: valid when 0 to 15 (R120). -/
def chanOperand (n : Nat) : Option ChanId :=
  if h : n ≤ 15 then some ⟨n, by omega⟩ else none

/-- A pin operand: valid when 0 to 95 (R60, R68). -/
def pinOperand (n : Nat) : Option PinId :=
  if h : n ≤ 95 then some ⟨n, by omega⟩ else none

/-- A pin operand of a command for analog pins: valid when 0 to 15 (R179, R181). -/
def analogPinOperand (n : Nat) : Option ChanId :=
  if h : n ≤ 15 then some ⟨n, by omega⟩ else none

/-- A port operand: valid when 0 to 11 (R60, R68). -/
def portOperand (n : Nat) : Option PortId :=
  if h : n ≤ 11 then some ⟨n, by omega⟩ else none

/-- `bool()`: 0 is 0, 1 to 255 are 1 (R9, R92). -/
def boolOperand (n : Nat) : Bool := n != 0

/-- A mode operand: the mode of a code 0 to 4; the other codes name no mode (R93). -/
def modeOperand (n : Nat) : Option Mode :=
  match n with
  | 0 => some .disabled
  | 1 => some .analogIn
  | 2 => some .digitalIn
  | 3 => some .digitalInPullup
  | 4 => some .digitalOut
  | _ => none

/-- The 3-bit code of a mode (R93). -/
def modeCode : Mode → BitVec 3
  | .disabled => 0
  | .analogIn => 1
  | .digitalIn => 2
  | .digitalInPullup => 3
  | .digitalOut => 4

/-- `busOf(b)` (R64, R161): `BUSMAP`. -/
def busOf (P : Params) (b : BankId) : Bus := P.busMap b

/-- `bankOf(p)` (R61): a column of `PINMAP`. -/
def bankOf (P : Params) (p : PinId) : BankId := (P.pinMap p).bank

/-- `chanOf(p)` (R61): a column of `PINMAP`. -/
def chanOf (P : Params) (p : PinId) : ChanId := (P.pinMap p).chan

/-- `portOf(p)` (R62): a column of `PINMAP`. -/
def portOf (P : Params) (p : PinId) : PortId := (P.pinMap p).port

/-- `bitOf(p)` (R62): a column of `PINMAP`. -/
def bitOf (P : Params) (p : PinId) : Fin 8 := (P.pinMap p).bit

/-- The pin at bit `i` of port `k`: `8k + i` (R62, R176). -/
def portPin (k : PortId) (i : Fin 8) : PinId := ⟨8 * k.val + i.val, by omega⟩

/-- The bank a port lies in: bank id `k / 2 + 1` (R63, R172, R178). -/
def portBank (k : PortId) : BankId := ⟨k.val / 2, by omega⟩

/-- The channel at bit `i` of port `k`: `8 (k mod 2) + i` (R63, R178). -/
def portChan (k : PortId) (i : Fin 8) : ChanId := ⟨8 * (k.val % 2) + i.val, by omega⟩

/-- The fixed analog bank, bank 1 (R179). -/
def analogBank : BankId := 0

/-- The pin of an analog channel: pins 0 to 15 are the channels of bank 1 (R61, R179). -/
def analogPin (c : ChanId) : PinId := ⟨c.val, by omega⟩

end Sys2Proof.Machine
end

