-- ==== Sys2Proof/Machine/Flags.lean ====
section
/-! DEFINITION. One-bit rules: what a mode makes of the lines (spec 40_bank_driver.md R122), which modes count as digital inputs
(42_pin_port_state_machine.md R172, R174, R176), polarity correction (R127), and when a sample is reported (R178, R179). -/

namespace Sys2Proof.Machine

/-- `DATA_DIR` of a mode: the controller drives the data line (R122). -/
def dataDirOf (m : Mode) : Bool := m == .digitalOut

/-- `DATA_PU` of a mode: the controller-side pull-up (R122). -/
def dataPuOf (m : Mode) : Bool := m == .digitalInPullup

/-- `SEL` of a mode: high selects the write circuit (R122). -/
def selOf (m : Mode) : Bool := m == .digitalOut

/-- DigitalIn or DigitalInPullup: the modes that report and whose pins count as inputs (R172, R174). -/
def isDigitalInput (m : Mode) : Bool := m == .digitalIn || m == .digitalInPullup

/-- A digital pin in the sense of `WRPORT` (R176). -/
def isDigital (m : Mode) : Bool := isDigitalInput m || m == .digitalOut

/-- The cached value a mode starts with: 1 for a pull-up, else 0 (R173, R174). -/
def initialCache (m : Mode) : Frame := if m == .digitalInPullup then 1 else 0

/-- The mode `StepB` gives a pin, from its bank's mode (R173). -/
def resetPinMode (p : PinId) (m : Mode) : Mode :=
  if p.val ≤ 15 then .analogIn
  else if 80 ≤ p.val then .digitalOut
  else if m = .digitalInPullup then .digitalInPullup
  else .digitalIn

/-- A set of modes is {DigitalOut} (R177). -/
def isOnlyDigitalOut (modes : List Mode) : Bool := modes.contains .digitalOut && modes.all (· == .digitalOut)

/-- Polarity correction: the value returned by `RDD` is the inverse of the raw level (R127). -/
def correctPolarity (raw : Level) : Bool := !raw

/-- Change suppression: report when the value differs from the last one sent, or when forced (R178). -/
def reportsDigital (value previous : Byte) (force : Bool) : Bool := value != previous || force

/-- Zero-suppression: a zero sample is not reported (R179). -/
def reportsAnalog (v : Frame) : Bool := v != 0

end Sys2Proof.Machine
end

