-- ==== Sys2Proof/Machine/State.lean ====
section
/-! DEFINITION. The state of the machine at an operation boundary (spec 10_state.md R20 to R40), its reset value (R38), and the
reasons a step can stop.  Everything is plain data. -/

namespace Sys2Proof.Machine

/-- The hardware raises no exception, has no cause code and never stops (R220): no constructor. -/
inductive Fault where
  deriving DecidableEq, Repr

/-- Why a command has no meaning in the model. -/
inductive Refusal where
  /-- Raised by an arm of `exec` whose command has no meaning yet; safe: nothing is claimed of it.  No arm does so. -/
  | notModelled (mnemonic : String)
  deriving DecidableEq, Repr

/-- A Bank record and the registers behind the bank's own lines (R20 to R23, R33). -/
@[ext]
structure Bank where
  /-- `mode[b]` (R21). -/
  mode : Mode
  /-- `shadow[b]`, bit `c` for channel `c` (R22). -/
  shadow : Frame
  /-- `outMode[b]`, the line `OUTMD[b]` (R23). -/
  outMode : Bool
  /-- The line register `DATA_OUT[b]` (R33). -/
  dataOut : Level
  /-- The line register `SCLK[b]` (R33). -/
  sclk : Level
  deriving DecidableEq, Repr

/-- The registers of an attached bank, outside the block (R34). -/
@[ext]
structure Attached where
  /-- `SR[b]`, the serial shift stage. -/
  sr : Frame
  /-- `Q[b]`, the latched output frame. -/
  q : Frame
  deriving DecidableEq, Repr

/-- A LogicalPin record (R26, R28, R29). -/
@[ext]
structure Pin where
  /-- `currentMode[p]` (R28). -/
  currentMode : Mode
  /-- `cachedValue[p]` (R29). -/
  cachedValue : Frame
  deriving DecidableEq, Repr

/-- A FirmataPort record (R31). -/
@[ext]
structure Port where
  /-- `reportEnabled[k]`. -/
  reportEnabled : Bool
  /-- `inputMask[k]`. -/
  inputMask : Byte
  /-- `previousSentValue[k]`. -/
  previousSentValue : Byte
  deriving DecidableEq, Repr

/-- One step of an operation: an assignment to a line, a register behind a line or a shadow bit, or one sample (R10, R136). -/
inductive LineStep where
  /-- `mode[b] <- m`, with the lines that follow it (R121, R122). -/
  | setMode (b : BankId) (m : Mode)
  /-- `shadow[b][c] <- v` (R123 step 1). -/
  | setShadow (b : BankId) (c : ChanId) (v : Level)
  /-- `OUTMD[b] <- v` (R123 steps 2 and 6, R126, R128). -/
  | outMode (b : BankId) (v : Level)
  /-- `A_x[3] <- v`, the latch line of a bus (R125). -/
  | latch (x : Bus) (v : Level)
  /-- `A_x[3:0] <- c`, all four bits in one step (R137). -/
  | address (x : Bus) (c : ChanId)
  /-- `DATA_OUT[b] <- v` (R124). -/
  | dataOut (b : BankId) (v : Level)
  /-- `SCLK[b] <- v` (R124). -/
  | sclk (b : BankId) (v : Level)
  /-- `Sample(b)` is taken (R126). -/
  | sample (b : BankId)
  /-- `ASample(b)` is taken (R128). -/
  | asample (b : BankId)
  deriving DecidableEq, Repr

/-- What the host does next at its ports (R99, R240). -/
inductive HostInput where
  /-- The word on `CMD` with `CMD_VALID` = 1. -/
  | command (w : CmdWord)
  /-- `RST` is asserted and released at an operation boundary. -/
  | rst
  /-- The word is accepted, and `RST` cuts the command after its first `n` line steps (R240, R263). -/
  | commandCut (w : CmdWord) (n : Nat)
  deriving DecidableEq, Repr

/-- The machine at an operation boundary, with its ports and its environment. -/
@[ext]
structure State where
  /-- The six Bank records (R20). -/
  banks : Vector Bank 6
  /-- The six attached banks (R34). -/
  attached : Vector Attached 6
  /-- The 96 LogicalPin records (R26). -/
  pins : Vector Pin 96
  /-- The 12 FirmataPort records (R31). -/
  ports : Vector Port 12
  /-- `analogReport`, bit `p` for analog pin `p` (R32). -/
  analogReport : BitVec 16
  /-- `A_P[3:0]`; bit 3 is `LATCH_P` (R33). -/
  addrP : BitVec 4
  /-- `A_S[3:0]`; bit 3 is `LATCH_S` (R33). -/
  addrS : BitVec 4
  /-- `CMD_READY` (R99). -/
  cmdReady : Bool
  /-- `DONE` was pulsed by the step just taken (R99). -/
  done : Bool
  /-- The words put on `RSP`, each with a pulse of `RSP_VALID`, by the step just taken, in order (R96, R99). -/
  rsp : List RspWord
  /-- The words put on `EVT`, each with a pulse of `EVT_VALID`, by the step just taken, in order (R98, R99). -/
  evt : List EvtWord
  /-- The line steps of the step just taken, in order (R72, R136): the model's own record. -/
  trace : List LineStep
  /-- What the host does next, first thing first (R75, R99): the model's own form of the input ports. -/
  input : List HostInput
  /-- The environment's next answers to `Sample`, first one first (R76): the model's own form of a free input. -/
  dataIn : List Level
  /-- The environment's next raw conversions, first one first (R76): the model's own form of a free input. -/
  adcIn : List (BitVec 16)
  /-- How many free values have been drawn: the model's own field. -/
  freeCount : Nat
  deriving DecidableEq, Repr

/-- The state at the first operation boundary after power-on: the power-on column of R38, for given parameters.  `SR` and `Q` hold
what R38 leaves unspecified (log 5); nothing is presented, listed or drawn yet (logs 1, 3, 14). -/
def State.resetWith (P : Params) : State where
  banks := Vector.ofFn fun b =>
    { mode := P.bankModeInit b, shadow := 0, outMode := false, dataOut := false, sclk := false }
  attached := Vector.ofFn fun b => { sr := Config.powerUpSR b, q := Config.powerUpQ b }
  pins := Vector.ofFn fun p =>
    { currentMode := resetPinMode p (P.bankModeInit (bankOf P p))
      cachedValue := initialCache (resetPinMode p (P.bankModeInit (bankOf P p))) }
  ports := Vector.ofFn fun k =>
    if isDigitalInput (P.bankModeInit (portBank k)) then { reportEnabled := true, inputMask := 0xFF, previousSentValue := 0 }
    else { reportEnabled := false, inputMask := 0, previousSentValue := 0 }
  analogReport := 0
  addrP := 0
  addrS := 0
  cmdReady := true
  done := false
  rsp := []
  evt := []
  trace := []
  input := []
  dataIn := []
  adcIn := []
  freeCount := 0

/-- The machine right after reset: the power-on column of R38 for this hardware's parameters. -/
def State.reset : State := State.resetWith Config.hw

end Sys2Proof.Machine
end

