-- ==== Sys2Proof/Machine/Ops.lean ====
section
/-! DEFINITION. The named operations on the state: records, lines and their edges, the attached banks, samples, responses and
events, the bank-level operations of the Bank Driver, the reset algorithm and the power-on sequence (spec 40_bank_driver.md,
41_bank_set.md, 42_pin_port_state_machine.md R170 to R173, 70_reset_and_hazards.md R240 to R242).  What depends on a parameter takes
the parameters `P` of R8 as an argument.  There is no memory (R60) and no
exception (R220), so no operation here reads an address or takes a trap. -/

namespace Sys2Proof.Machine

/-! ### Bits -/

/-- `x` with bit `i` set to `v`. -/
def setBit {n : Nat} (x : BitVec n) (i : Nat) (v : Bool) : BitVec n :=
  if v then x ||| (1#n <<< i) else x &&& ~~~(1#n <<< i)

/-- The byte whose bit `i` is entry `i` of the list. -/
def byteOfBits : List Bool → Byte
  | [] => 0
  | bit :: rest => (byteOfBits rest <<< 1) ||| BitVec.zeroExtend 8 (BitVec.ofBool bit)

/-- One bit as a 16-bit value, `zext_16`. -/
def bitValue (v : Bool) : Frame := if v then 1 else 0

/-! ### Records -/

/-- The record of a bank (R20). -/
def State.bank (s : State) (b : BankId) : Bank := s.banks[b.val]

/-- Replaces the record of a bank. -/
def State.setBank (s : State) (b : BankId) (r : Bank) : State := { s with banks := s.banks.set b.val r b.isLt }

/-- The registers of an attached bank (R34). -/
def State.att (s : State) (b : BankId) : Attached := s.attached[b.val]

/-- Replaces the registers of an attached bank. -/
def State.setAtt (s : State) (b : BankId) (r : Attached) : State := { s with attached := s.attached.set b.val r b.isLt }

/-- The record of a pin (R26). -/
def State.pin (s : State) (p : PinId) : Pin := s.pins[p.val]

/-- Replaces the record of a pin. -/
def State.setPin (s : State) (p : PinId) (r : Pin) : State := { s with pins := s.pins.set p.val r p.isLt }

/-- The record of a port (R31). -/
def State.port (s : State) (k : PortId) : Port := s.ports[k.val]

/-- Replaces the record of a port. -/
def State.setPort (s : State) (k : PortId) (r : Port) : State := { s with ports := s.ports.set k.val r k.isLt }

/-- Writes the cached value of a pin (R29). -/
def State.setCache (s : State) (p : PinId) (v : Frame) : State := s.setPin p { s.pin p with cachedValue := v }

/-! ### Lines -/

/-- `SEL[b]`, a line of banks 1 to 3 only (R33, R122). -/
def State.sel (s : State) (b : BankId) : Option Level :=
  if bankNumber b ≤ 3 then some (selOf (s.bank b).mode) else none

/-- `DATA_DIR[b]` (R33, R122). -/
def State.dataDir (s : State) (b : BankId) : Bool := dataDirOf (s.bank b).mode

/-- `DATA_PU[b]` (R33, R122). -/
def State.dataPu (s : State) (b : BankId) : Bool := dataPuOf (s.bank b).mode

/-- `A_x`, the four address lines of a bus (R33, R161). -/
def State.addr (s : State) (x : Bus) : BitVec 4 :=
  match x with
  | .primary => s.addrP
  | .secondary => s.addrS

/-- Writes the address register of a bus, without the edge it may make. -/
def State.putAddr (s : State) (x : Bus) (a : BitVec 4) : State :=
  match x with
  | .primary => { s with addrP := a }
  | .secondary => { s with addrS := a }

/-- `LATCH_x`, an alias of `A_x[3]` (R33). -/
def State.latchLine (s : State) (x : Bus) : Level := (s.addr x).getLsbD 3

/-! ### The attached banks -/

/-- A rising edge of the latch line of bus `x`: every bank of the bus commits its frame (R131). -/
def State.commit (s : State) (P : Params) (x : Bus) : State :=
  { s with attached := Vector.ofFn fun b => if busOf P b = x then { s.att b with q := (s.att b).sr } else s.att b }

/-- The shift stage after one bit: `{SR[14:0], d}` (R131). -/
def shiftUp (sr : Frame) (d : Level) : Frame := BitVec.concat (sr.setWidth 15) d

/-- A rising edge of `SCLK[b]`: the bank shifts in the line's bit, which is the controller's when it drives the line and a free
value otherwise (R131, U11). -/
def State.shiftIn (s : State) (b : BankId) : State :=
  if s.dataDir b then
    s.setAtt b { s.att b with sr := shiftUp (s.att b).sr (s.bank b).dataOut }
  else
    { s.setAtt b { s.att b with sr := shiftUp (s.att b).sr (Config.freeBit s.freeCount) } with freeCount := s.freeCount + 1 }

/-! ### Line steps -/

/-- Writes `A_x[3:0]`; the bus latches when bit 3 rises (R70, R131). -/
def State.driveAddr (s : State) (P : Params) (x : Bus) (a : BitVec 4) : State :=
  if !s.latchLine x && a.getLsbD 3 then (s.putAddr x a).commit P x else s.putAddr x a

/-- Writes `SCLK[b]`; the bank shifts when it rises (R124, R131). -/
def State.driveSclk (s : State) (b : BankId) (v : Level) : State :=
  let t := s.setBank b { s.bank b with sclk := v }
  if !(s.bank b).sclk && v then t.shiftIn b else t

/-- The level the environment presents on `DATA[b]` at this step: the next listed answer, else a free value (R76, U1). -/
def State.sampleLevel (s : State) : Level :=
  match s.dataIn with
  | v :: _ => v
  | [] => Config.freeSample s.freeCount

/-- The raw conversion of `DATA[b]` at this step, `AW` bits (R10, R76). -/
def State.asampleValue (s : State) (P : Params) : Frame :=
  let raw := match s.adcIn with
    | v :: _ => v
    | [] => Config.freeAnalog s.freeCount
  BitVec.ofNat 16 (raw.toNat % 2 ^ P.AW)

/-- The environment after it has answered `Sample` once. -/
def State.sampleTaken (s : State) : State :=
  match s.dataIn with
  | _ :: rest => { s with dataIn := rest }
  | [] => { s with freeCount := s.freeCount + 1 }

/-- The environment after it has answered `ASample` once. -/
def State.asampleTaken (s : State) : State :=
  match s.adcIn with
  | _ :: rest => { s with adcIn := rest }
  | [] => { s with freeCount := s.freeCount + 1 }

/-- The effect of one line step, edges included (R123, R124, R131). -/
def State.apply (s : State) (P : Params) (st : LineStep) : State :=
  match st with
  | .setMode b m => s.setBank b { s.bank b with mode := m }
  | .setShadow b c v => s.setBank b { s.bank b with shadow := setBit (s.bank b).shadow c.val v }
  | .outMode b v => s.setBank b { s.bank b with outMode := v }
  | .latch x v => s.driveAddr P x (setBit (s.addr x) 3 v)
  | .address x c => s.driveAddr P x (BitVec.ofNat 4 c.val)
  | .dataOut b v => s.setBank b { s.bank b with dataOut := v }
  | .sclk b v => s.driveSclk b v
  | .sample _ => s.sampleTaken
  | .asample _ => s.asampleTaken

/-- Performs one line step and records it (R72, R136). -/
def State.drive (s : State) (P : Params) (st : LineStep) : State :=
  let t := s.apply P st
  { t with trace := t.trace ++ [st] }

/-- Performs line steps in order (R72). -/
def State.runSteps (s : State) (P : Params) (steps : List LineStep) : State := steps.foldl (fun t st => t.drive P st) s

/-! ### The Bank Driver's operations on a valid bank and channel (R163) -/

/-- The steps of `CFG b, m`: one mode write when the bank's capability holds the mode, none otherwise (R121, R136). -/
def cfgSteps (P : Params) (b : BankId) (m : Mode) : List LineStep :=
  if m ∈ P.bankCap b then [.setMode b m] else []

/-- `CFG` of a valid bank and a known mode (R121). -/
def State.cfg (s : State) (P : Params) (b : BankId) (m : Mode) : State := s.runSteps P (cfgSteps P b m)

/-- `ShiftBit(b, d)` (R124). -/
def shiftBit (b : BankId) (d : Level) : List LineStep := [.dataOut b d, .sclk b true, .sclk b false]

/-- The channels of a frame in the order they are shifted, 15 down to 0 (R66, R123). -/
def frameOrder : List Nat := [15, 14, 13, 12, 11, 10, 9, 8, 7, 6, 5, 4, 3, 2, 1, 0]

/-- The 16 `ShiftBit`s of a frame (R66, R123 step 4). -/
def shiftFrame (b : BankId) (f : Frame) : List LineStep := frameOrder.flatMap fun i => shiftBit b (f.getLsbD i)

/-- The 54 steps of `WRCH b, c, v` when `shadow[b]` is `sh` before (R123, R125, R136). -/
def wrchSteps (P : Params) (b : BankId) (c : ChanId) (v : Level) (sh : Frame) : List LineStep :=
  [.setShadow b c v, .outMode b true, .latch (busOf P b) false]
    ++ shiftFrame b (setBit sh c.val v)
    ++ [.latch (busOf P b) true, .latch (busOf P b) false, .outMode b false]

/-- `WRCH` of a valid bank and channel (R123). -/
def State.wrch (s : State) (P : Params) (b : BankId) (c : ChanId) (v : Level) : State :=
  s.runSteps P (wrchSteps P b c v (s.bank b).shadow)

/-- The steps of a read before its sample: input mode, then the address (R126, R128). -/
def presentSteps (P : Params) (b : BankId) (c : ChanId) : List LineStep := [.outMode b false, .address (busOf P b) c]

/-- The three steps of `RDD` of a valid bank and channel (R126, R136). -/
def rddSteps (P : Params) (b : BankId) (c : ChanId) : List LineStep := presentSteps P b c ++ [.sample b]

/-- The three steps of `RDA` of a valid bank and channel (R128, R136). -/
def rdaSteps (P : Params) (b : BankId) (c : ChanId) : List LineStep := presentSteps P b c ++ [.asample b]

/-- `RDD` of a valid bank and channel: the polarity-corrected sample and the state after it (R126, R127). -/
def State.rdd (s : State) (P : Params) (b : BankId) (c : ChanId) : Bool × State :=
  let t := s.runSteps P (presentSteps P b c)
  (correctPolarity t.sampleLevel, t.drive P (.sample b))

/-- `RDA` of a valid bank and channel: the raw sample and the state after it (R128). -/
def State.rda (s : State) (P : Params) (b : BankId) (c : ChanId) : Frame × State :=
  let t := s.runSteps P (presentSteps P b c)
  (t.asampleValue P, t.drive P (.asample b))

/-- A run of `RDD` on the channels of a bank, in the list's order (R178). -/
def State.rddAll (s : State) (P : Params) (b : BankId) : List ChanId → List Bool × State
  | [] => ([], s)
  | c :: rest =>
    let r := s.rdd P b c
    let more := r.2.rddAll P b rest
    (r.1 :: more.1, more.2)

/-- The operands of one called `WRCH`: bank, channel, value. -/
abbrev Write := BankId × ChanId × Level

/-- A run of `WRCH`, in the list's order (R176). -/
def State.wrchAll (s : State) (P : Params) : List Write → State
  | [] => s
  | (b, c, v) :: rest => (s.wrch P b c v).wrchAll P rest

/-- The line steps of a run of `WRCH` when the banks' shadows are `sh` before (R176). -/
def wrchAllSteps (P : Params) : List Write → (BankId → Frame) → List LineStep
  | [], _ => []
  | (b, c, v) :: rest, sh =>
    wrchSteps P b c v (sh b) ++ wrchAllSteps P rest fun b' => if b' = b then setBit (sh b) c.val v else sh b'

/-! ### Responses and events -/

/-- The response word `{err, value}` (R96). -/
def rspWord (err : Bool) (value : BitVec 32) : RspWord := BitVec.ofBool err ++ value

/-- The event word `{kind, id, value}` (R98). -/
def evtWord (kind : Bool) (id : Byte) (value : BitVec 16) : EvtWord := BitVec.ofBool kind ++ id ++ value

/-- Puts one word on the response port (R10, R96). -/
def State.respond (s : State) (err : Bool) (value : BitVec 32) : State := { s with rsp := s.rsp ++ [rspWord err value] }

/-- The sentinel (R97). -/
def State.respondSentinel (s : State) : State := s.respond true 0xFFFFFFFF

/-- `emit_digital(k, byte)` (R10, R98). -/
def State.emitDigital (s : State) (k : PortId) (byte : Byte) : State :=
  { s with evt := s.evt ++ [evtWord false (BitVec.ofNat 8 k.val) (byte.setWidth 16)] }

/-- `emit_analog(p, v)` (R10, R98). -/
def State.emitAnalog (s : State) (p : PinId) (v : Frame) : State :=
  { s with evt := s.evt ++ [evtWord true (BitVec.ofNat 8 p.val) v] }

/-! ### Reset and power-on -/

/-- `StepA` for one port, from its bank's mode (R172). -/
def resetPort (m : Mode) : Port :=
  { reportEnabled := isDigitalInput m, inputMask := if isDigitalInput m then 0xFF else 0, previousSentValue := 0 }

/-- `StepA`: the port records and `analogReport`; the order of banks and ports cannot be observed (R172, U20). -/
def State.resetPorts (s : State) : State :=
  { s with
    ports := Vector.ofFn fun k => resetPort (s.bank (portBank k)).mode
    analogReport := 0 }

/-- `StepB`: the pin records (R173). -/
def State.resetPins (s : State) (P : Params) : State :=
  { s with
    pins := Vector.ofFn fun p =>
      { currentMode := resetPinMode p (s.bank (bankOf P p)).mode
        cachedValue := initialCache (resetPinMode p (s.bank (bankOf P p)).mode) } }

/-- `RESET()`: `StepA`, then `StepB` (R171). -/
def State.resetAlgorithm (s : State) (P : Params) : State := s.resetPorts.resetPins P

/-- The assignments of the power-on sequence before it runs `RESET()`: the registers of the block, and every pin Unconfigured
(R241).  No line rises, so the attached banks keep what they hold. -/
def State.powerOnRegisters (s : State) (P : Params) : State :=
  { s with
    banks := Vector.ofFn fun b =>
      { mode := P.bankModeInit b, shadow := 0, outMode := false, dataOut := false, sclk := false }
    addrP := 0
    addrS := 0
    pins := Vector.ofFn fun _ => { currentMode := .disabled, cachedValue := 0 } }

/-- The power-on sequence, up to the first operation boundary (R241). -/
def State.powerOn (s : State) (P : Params) : State :=
  let t := (s.powerOnRegisters P).resetAlgorithm P
  { t with cmdReady := true, done := false, rsp := [], evt := [] }

/-- The bank a line step shifts, if it raises a shift clock. -/
def shiftedBank : LineStep → Option BankId
  | .sclk b true => some b
  | _ => none

/-- What a cut write leaves of the shift stage of every bank the abandoned steps were to shift: any value (R263, U8; log 7). -/
def State.losePartialFrames (s : State) (steps : List LineStep) : State :=
  { s with
    attached := Vector.ofFn fun b =>
      if some b ∈ steps.map shiftedBank then { s.att b with sr := Config.freeFrame (s.freeCount + b.val) } else s.att b
    freeCount := s.freeCount + 6 }

end Sys2Proof.Machine
end

