-- ==== Sys2Proof/Machine/BankDriver.lean ====
section
/-! DEFINITION. The meanings of the Bank Driver commands (spec 40_bank_driver.md R120 to R130), reached through the Bank Set
(41_bank_set.md R160, R163).  Each check that fails gives the outcome of R120 and R226.  A meaning that depends on a
parameter is written once for any parameters (`…With`); the meaning of this hardware is that one at `Config.hw` (R8). -/

namespace Sys2Proof.Machine

/-- `CFG bank, mode` (R121): bank range, then capability. -/
def execCfgWith (P : Params) (bank mode : Nat) (s : State) : Host.Outcome State Fault Refusal :=
  match bankOperand bank with
  | none => .next s
  | some b =>
    match modeOperand mode with
    | none => .next s
    | some m => .next (s.cfg P b m)

/-- `CFG bank, mode` of this hardware. -/
def execCfg (bank mode : Nat) (s : State) : Host.Outcome State Fault Refusal := execCfgWith Config.hw bank mode s

/-- `WRCH bank, channel, value` (R123): bank range, then channel range; the bank's mode is not tested. -/
def execWrchWith (P : Params) (bank chan value : Nat) (s : State) : Host.Outcome State Fault Refusal :=
  match bankOperand bank with
  | none => .next s
  | some b =>
    match chanOperand chan with
    | none => .next s
    | some c => .next (s.wrch P b c (boolOperand value))

/-- `WRCH bank, channel, value` of this hardware. -/
def execWrch (bank chan value : Nat) (s : State) : Host.Outcome State Fault Refusal := execWrchWith Config.hw bank chan value s

/-- `RDD bank, channel` (R126): the sentinel out of range, else the inverse of the sampled level. -/
def execRddWith (P : Params) (bank chan : Nat) (s : State) : Host.Outcome State Fault Refusal :=
  match bankOperand bank with
  | none => .next s.respondSentinel
  | some b =>
    match chanOperand chan with
    | none => .next s.respondSentinel
    | some c => .next ((s.rdd P b c).2.respond false (BitVec.zeroExtend 32 (bitValue (s.rdd P b c).1)))

/-- `RDD bank, channel` of this hardware. -/
def execRdd (bank chan : Nat) (s : State) : Host.Outcome State Fault Refusal := execRddWith Config.hw bank chan s

/-- `RDA bank, channel` (R128): the sentinel out of range, else the raw sample. -/
def execRdaWith (P : Params) (bank chan : Nat) (s : State) : Host.Outcome State Fault Refusal :=
  match bankOperand bank with
  | none => .next s.respondSentinel
  | some b =>
    match chanOperand chan with
    | none => .next s.respondSentinel
    | some c => .next ((s.rda P b c).2.respond false (BitVec.zeroExtend 32 (s.rda P b c).1))

/-- `RDA bank, channel` of this hardware. -/
def execRda (bank chan : Nat) (s : State) : Host.Outcome State Fault Refusal := execRdaWith Config.hw bank chan s

/-- The value of a bank's record: `{0[11:0], outMode, mode, shadow}` (R96, R129). -/
def bankRecordValue (r : Bank) : BitVec 32 := (0 : BitVec 12) ++ BitVec.ofBool r.outMode ++ modeCode r.mode ++ r.shadow

/-- `QBANK bank` (R129). -/
def execQbank (bank : Nat) (s : State) : Host.Outcome State Fault Refusal :=
  match bankOperand bank with
  | none => .next s.respondSentinel
  | some b => .next (s.respond false (bankRecordValue (s.bank b)))

end Sys2Proof.Machine
end

