-- ==== Sys2Proof/Machine/PinPort.lean ====
section
/-! DEFINITION. The meanings of the Pin/Port State Machine commands (spec 42_pin_port_state_machine.md R170 to R183). -/

namespace Sys2Proof.Machine

/-- `RESET` (R171). -/
def execResetWith (P : Params) (s : State) : Host.Outcome State Fault Refusal := .next (s.resetAlgorithm P)

/-- `RESET` of this hardware. -/
def execReset (s : State) : Host.Outcome State Fault Refusal := execResetWith Config.hw s

/-- Writes the input mask bit of a pin in its port (R174). -/
def State.setInputBit (s : State) (P : Params) (p : PinId) (v : Bool) : State :=
  s.setPort (portOf P p) { s.port (portOf P p) with inputMask := setBit (s.port (portOf P p)).inputMask (bitOf P p).val v }

/-- The `WRPIN` algorithm on a valid pin (R177), also run inside `SETMODE` (R187). -/
def State.pinWrite (s : State) (P : Params) (p : PinId) (v : Level) : State :=
  if !isOnlyDigitalOut (P.allowed p) then s
  else if (s.pin p).currentMode ≠ .digitalOut then s
  else (s.setCache p (bitValue v)).wrch P (bankOf P p) (chanOf P p) v

/-- The record writes of an accepted `SETMODE p, m` (R174). -/
def State.acceptModeRecords (s : State) (P : Params) (p : PinId) (m : Mode) : State :=
  (s.setPin p { currentMode := m, cachedValue := initialCache m }).setInputBit P p (isDigitalInput m)

/-- The accepted path of `SETMODE p, m`: the records, the bank dispatch, the synthesized logical high of a pull-up (R174, R187). -/
def State.acceptMode (s : State) (P : Params) (p : PinId) (m : Mode) : State :=
  let t := (s.acceptModeRecords P p m).cfg P (bankOf P p) m
  if m = .digitalInPullup then t.pinWrite P p true else t

/-- `SETMODE` of a valid pin: exclusion, raw code, capability, in this order (R175, R226). -/
def State.setmode (s : State) (P : Params) (p : PinId) (mode : Nat) : State :=
  if P.excl p then s
  else
    match modeOperand mode with
    | none => s.setCache p 0
    | some m => if m ∈ P.allowed p then s.acceptMode P p m else s

/-- `SETMODE pin, mode` (R174). -/
def execSetmodeWith (P : Params) (pin mode : Nat) (s : State) : Host.Outcome State Fault Refusal :=
  match pinOperand pin with
  | none => .next s
  | some p => .next (s.setmode P p mode)

/-- `SETMODE pin, mode` of this hardware. -/
def execSetmode (pin mode : Nat) (s : State) : Host.Outcome State Fault Refusal := execSetmodeWith Config.hw pin mode s

/-- Phase 1 of `WRPORT`: the cache of every digital pin `8k + i` of the port takes its bit (R176). -/
def State.cachePort (s : State) (k : PortId) (byte : Byte) : State :=
  { s with
    pins := Vector.ofFn fun p =>
      if p.val / 8 = k.val ∧ isDigital (s.pin p).currentMode then
        { s.pin p with cachedValue := bitValue (byte.getLsbD (p.val % 8)) }
      else s.pin p }

/-- The write mask of `WRPORT` and its bits: one entry per DigitalOut pin of the port, ascending (R176). -/
def State.portWrites (s : State) (P : Params) (k : PortId) (byte : Byte) : List Write :=
  (List.finRange 8).filterMap fun i =>
    if (s.pin (portPin k i)).currentMode = .digitalOut then
      some (bankOf P (portPin k i), chanOf P (portPin k i), byte.getLsbD i.val)
    else none

/-- `WRPORT port, byte` (R176): caches first, then one `WRCH` per DigitalOut pin. -/
def execWrportWith (P : Params) (port : Nat) (byte : Byte) (s : State) : Host.Outcome State Fault Refusal :=
  match portOperand port with
  | none => .next s
  | some k => .next ((s.cachePort k byte).wrchAll P (s.portWrites P k byte))

/-- `WRPORT port, byte` of this hardware. -/
def execWrport (port : Nat) (byte : Byte) (s : State) : Host.Outcome State Fault Refusal := execWrportWith Config.hw port byte s

/-- `WRPIN pin, value` (R177). -/
def execWrpinWith (P : Params) (pin value : Nat) (s : State) : Host.Outcome State Fault Refusal :=
  match pinOperand pin with
  | none => .next s
  | some p => .next (s.pinWrite P p (boolOperand value))

/-- `WRPIN pin, value` of this hardware. -/
def execWrpin (pin value : Nat) (s : State) : Host.Outcome State Fault Refusal := execWrpinWith Config.hw pin value s

/-- The channels of a port, ascending (R178). -/
def portChannels (k : PortId) : List ChanId := (List.finRange 8).map (portChan k)

/-- `SAMPD` of a valid port: eight reads, the mask, and the event that change suppression leaves (R178). -/
def State.sampd (s : State) (P : Params) (k : PortId) (force : Bool) : State :=
  if (s.port k).reportEnabled then
    let r := s.rddAll P (portBank k) (portChannels k)
    let value := byteOfBits r.1 &&& (s.port k).inputMask
    if reportsDigital value (s.port k).previousSentValue force then
      (r.2.emitDigital k value).setPort k { s.port k with previousSentValue := value }
    else r.2
  else s

/-- `SAMPD port, force` (R178). -/
def execSampdWith (P : Params) (port force : Nat) (s : State) : Host.Outcome State Fault Refusal :=
  match portOperand port with
  | none => .next s
  | some k => .next (s.sampd P k (boolOperand force))

/-- `SAMPD port, force` of this hardware. -/
def execSampd (port force : Nat) (s : State) : Host.Outcome State Fault Refusal := execSampdWith Config.hw port force s

/-- `SAMPA` of an analog pin: one read of bank 1, the cache, and the event that zero-suppression leaves (R179). -/
def State.sampa (s : State) (P : Params) (c : ChanId) : State :=
  let r := s.rda P analogBank c
  let t := r.2.setCache (analogPin c) r.1
  if reportsAnalog r.1 then t.emitAnalog (analogPin c) r.1 else t

/-- `SAMPA pin` (R179). -/
def execSampaWith (P : Params) (pin : Nat) (s : State) : Host.Outcome State Fault Refusal :=
  match analogPinOperand pin with
  | none => .next s
  | some c => .next (s.sampa P c)

/-- `SAMPA pin` of this hardware. -/
def execSampa (pin : Nat) (s : State) : Host.Outcome State Fault Refusal := execSampaWith Config.hw pin s

/-- `REPD port, enable` (R180). -/
def execRepd (port enable : Nat) (s : State) : Host.Outcome State Fault Refusal :=
  match portOperand port with
  | none => .next s
  | some k => .next (s.setPort k { s.port k with reportEnabled := boolOperand enable })

/-- `REPA pin, enable` (R181). -/
def execRepa (pin enable : Nat) (s : State) : Host.Outcome State Fault Refusal :=
  match analogPinOperand pin with
  | none => .next s
  | some c => .next { s with analogReport := setBit s.analogReport c.val (boolOperand enable) }

/-- The value of a pin's record: `{0[10:0], ar, EXCL, currentMode, cachedValue}` (R96, R182). -/
def pinRecordValue (ar excl : Bool) (r : Pin) : BitVec 32 :=
  (0 : BitVec 11) ++ BitVec.ofBool ar ++ BitVec.ofBool excl ++ modeCode r.currentMode ++ r.cachedValue

/-- `QPIN pin` (R182); the `analogReport` bit is that of pins 0 to 15 only. -/
def execQpinWith (P : Params) (pin : Nat) (s : State) : Host.Outcome State Fault Refusal :=
  match pinOperand pin with
  | none => .next s.respondSentinel
  | some p =>
    .next (s.respond false
      (pinRecordValue (decide (p.val ≤ 15) && s.analogReport.getLsbD p.val) (P.excl p) (s.pin p)))

/-- `QPIN pin` of this hardware. -/
def execQpin (pin : Nat) (s : State) : Host.Outcome State Fault Refusal := execQpinWith Config.hw pin s

/-- The value of a port's record: `{0[14:0], reportEnabled, inputMask, previousSentValue}` (R96, R183). -/
def portRecordValue (r : Port) : BitVec 32 :=
  (0 : BitVec 15) ++ BitVec.ofBool r.reportEnabled ++ r.inputMask ++ r.previousSentValue

/-- `QPORT port` (R183). -/
def execQport (port : Nat) (s : State) : Host.Outcome State Fault Refusal :=
  match portOperand port with
  | none => .next s.respondSentinel
  | some k => .next (s.respond false (portRecordValue (s.port k)))

end Sys2Proof.Machine
end

