-- ==== Sys2Proof/Machine/Dispatch.lean ====
section
/-! DEFINITION. One arm per command of the opcode table (spec 30_encoding.md R94). -/

namespace Sys2Proof.Machine

def exec (i : Instr) (s : State) : Host.Outcome State Fault Refusal :=
  match i with
  | .cfg bank mode => Sys2Proof.Machine.execCfg bank mode s
  | .wrch bank chan value => Sys2Proof.Machine.execWrch bank chan value s
  | .rdd bank chan => Sys2Proof.Machine.execRdd bank chan s
  | .rda bank chan => Sys2Proof.Machine.execRda bank chan s
  | .qbank bank => Sys2Proof.Machine.execQbank bank s
  | .reset => Sys2Proof.Machine.execReset s
  | .setmode pin mode => Sys2Proof.Machine.execSetmode pin mode s
  | .wrport port byte => Sys2Proof.Machine.execWrport port byte s
  | .wrpin pin value => Sys2Proof.Machine.execWrpin pin value s
  | .sampd port force => Sys2Proof.Machine.execSampd port force s
  | .sampa pin => Sys2Proof.Machine.execSampa pin s
  | .repd port enable => Sys2Proof.Machine.execRepd port enable s
  | .repa pin enable => Sys2Proof.Machine.execRepa pin enable s
  | .qpin pin => Sys2Proof.Machine.execQpin pin s
  | .qport port => Sys2Proof.Machine.execQport port s

end Sys2Proof.Machine
end

