-- ==== Sys2Proof/Machine/LineTrace.lean ====
section
/-! DEFINITION. The line steps of each command, in order (spec 40_bank_driver.md R136; 42_pin_port_state_machine.md R170): what the
bank-side lines do while the command runs, whether or not it runs to its end (70_reset_and_hazards.md R240, R263). -/

namespace Sys2Proof.Machine

/-- The line steps of the `WRPIN` algorithm on a valid pin (R177). -/
def State.pinWriteSteps (s : State) (P : Params) (p : PinId) (v : Level) : List LineStep :=
  if !isOnlyDigitalOut (P.allowed p) then []
  else if (s.pin p).currentMode ≠ .digitalOut then []
  else wrchSteps P (bankOf P p) (chanOf P p) v (s.bank (bankOf P p)).shadow

/-- The line steps of the accepted path of `SETMODE p, m` (R174, R187). -/
def State.acceptModeSteps (s : State) (P : Params) (p : PinId) (m : Mode) : List LineStep :=
  cfgSteps P (bankOf P p) m ++
    (if m = .digitalInPullup then ((s.acceptModeRecords P p m).cfg P (bankOf P p) m).pinWriteSteps P p true else [])

/-- The line steps of `SETMODE` of a valid pin (R174, R175). -/
def State.setmodeSteps (s : State) (P : Params) (p : PinId) (mode : Nat) : List LineStep :=
  if P.excl p then []
  else
    match modeOperand mode with
    | none => []
    | some m => if m ∈ P.allowed p then s.acceptModeSteps P p m else []

/-- The line steps of the eight reads of a port, each three steps (R136, R178). -/
def portReadSteps (P : Params) (k : PortId) : List LineStep := (portChannels k).flatMap (rddSteps P (portBank k))

/-- The line steps of a command run from a state; a rejected form has none (R136). -/
def lineSteps (P : Params) (i : Instr) (s : State) : List LineStep :=
  match i with
  | .cfg bank mode =>
    match bankOperand bank, modeOperand mode with
    | some b, some m => cfgSteps P b m
    | _, _ => []
  | .wrch bank chan value =>
    match bankOperand bank, chanOperand chan with
    | some b, some c => wrchSteps P b c (boolOperand value) (s.bank b).shadow
    | _, _ => []
  | .rdd bank chan =>
    match bankOperand bank, chanOperand chan with
    | some b, some c => rddSteps P b c
    | _, _ => []
  | .rda bank chan =>
    match bankOperand bank, chanOperand chan with
    | some b, some c => rdaSteps P b c
    | _, _ => []
  | .qbank _ => []
  | .reset => []
  | .setmode pin mode =>
    match pinOperand pin with
    | some p => s.setmodeSteps P p mode
    | none => []
  | .wrport port byte =>
    match portOperand port with
    | some k => wrchAllSteps P (s.portWrites P k byte) fun b => (s.bank b).shadow
    | none => []
  | .wrpin pin value =>
    match pinOperand pin with
    | some p => s.pinWriteSteps P p (boolOperand value)
    | none => []
  | .sampd port _ =>
    match portOperand port with
    | some k => if (s.port k).reportEnabled then portReadSteps P k else []
    | none => []
  | .sampa pin =>
    match analogPinOperand pin with
    | some c => rdaSteps P analogBank c
    | none => []
  | .repd _ _ => []
  | .repa _ _ => []
  | .qpin _ => []
  | .qport _ => []

end Sys2Proof.Machine
end

