-- ==== Sys2Proof/Machine/Sequencer.lean ====
section
/-! DEFINITION. The sequencer and the host-side ports (spec 20_memory.md R72, R75; 30_encoding.md R95, R99; 60_exceptions.md R225,
R227; 70_reset_and_hazards.md R240 to R243, R263): one command at a time, accepted at an operation boundary and run to completion
unless `RST` cuts it short.  `ex` gives the commands their effects; it is `exec` in `step`. -/

namespace Sys2Proof.Machine

/-- The pulses of the step before are over, and its line steps are past (R99). -/
def State.clearPulses (s : State) : State := { s with done := false, rsp := [], evt := [], trace := [] }

/-- A command is accepted: `CMD_READY` falls (R99). -/
def State.accept (s : State) : State := { s.clearPulses with cmdReady := false }

/-- The accepted command has completed: one pulse of `DONE`, and `CMD_READY` rises (R99). -/
def State.complete (s : State) : State := { s with cmdReady := true, done := true }

/-- What the sequencer makes of the end of a command. -/
def completeOutcome : Host.Outcome State Fault Refusal → Host.Outcome State Fault Refusal
  | .next t => .next t.complete
  | .fault r => .fault r
  | .refused r => .refused r

/-- Runs one presented word to completion; a reserved opcode is a no-op that completes (R95, R102). -/
def State.runWord (s : State) (ex : Instr → State → Host.Outcome State Fault Refusal) (w : CmdWord) : Host.Outcome State Fault Refusal :=
  match decode w with
  | .ok i => completeOutcome (ex i s.accept)
  | .error _ => .next s.accept.complete

/-- The line steps of a presented word; a reserved opcode has none (R95). -/
def State.wordSteps (s : State) (P : Params) (w : CmdWord) : List LineStep :=
  match decode w with
  | .ok i => lineSteps P i s
  | .error _ => []

/-- `RST` cuts the presented word after its first `n` line steps: no response, no event, no `DONE`, and the power-on sequence runs.
A write cut short leaves any value in the shift stage of the bank it was writing (R240, R241, R263, U8). -/
def State.abandonWord (s : State) (P : Params) (w : CmdWord) (n : Nat) : State :=
  ((s.accept.runSteps P ((s.accept.wordSteps P w).take n)).losePartialFrames (s.accept.wordSteps P w)).powerOn P

/-- One step at an operation boundary: what the host does next happens.  With nothing presented the block waits and never acts on
its own (R225, R243); while `CMD_READY` is 0, which no run reaches, no command is accepted (R99; the model's choice, log 2). -/
def State.runInput (s : State) (P : Params) (ex : Instr → State → Host.Outcome State Fault Refusal) :
    Host.Outcome State Fault Refusal :=
  match s.input with
  | [] => .next s.clearPulses
  | .rst :: rest => .next (({ s.clearPulses with input := rest } : State).powerOn P)
  | .command w :: rest =>
    if s.cmdReady then ({ s with input := rest } : State).runWord ex w else .next s.clearPulses
  | .commandCut w n :: rest =>
    if s.cmdReady then .next (({ s with input := rest } : State).abandonWord P w n)
    else .next (({ s.clearPulses with input := rest } : State).powerOn P)

end Sys2Proof.Machine
end

