-- ==== Sys2Proof/Machine/Step.lean ====
section
/-! DEFINITION. One step of the machine: from one operation boundary to the next (spec 20_memory.md R72). -/

namespace Sys2Proof.Machine

/-- The step of this hardware: the sequencer takes what the host does next and runs its commands by `exec` (R72, R99). -/
def step (s : State) : Host.Outcome State Fault Refusal := s.runInput Config.hw exec

/-- The state in which the host presents the given word next, with `CMD_READY` = 1: the next step runs it.  There is no memory to
load a program into (R75): a program is the words the host presents (log 1). -/
def State.withFetchWord (s : State) (nbits w : Nat) : State :=
  { s with input := .command (BitVec.ofNat 32 (w % 2 ^ nbits)) :: s.input, cmdReady := true }

end Sys2Proof.Machine
end

