-- ==== Sys2Proof/Machine/AnyHardware.lean ====
section
/-! DEFINITION. The machine for any values of the parameters (spec 00_scope.md R8; 93_implementation_defined.md U13, U14): the same
meanings and the same sequencer, with the parameters as an argument.  `exec`, `step` and `State.reset` are these at `Config.hw`. -/

namespace Sys2Proof.Machine

/-- The effect of a command on a hardware with parameters `P` (R8, R94). -/
def execWith (P : Params) (i : Instr) (s : State) : Host.Outcome State Fault Refusal :=
  match i with
  | .cfg bank mode => execCfgWith P bank mode s
  | .wrch bank chan value => execWrchWith P bank chan value s
  | .rdd bank chan => execRddWith P bank chan s
  | .rda bank chan => execRdaWith P bank chan s
  | .qbank bank => execQbank bank s
  | .reset => execResetWith P s
  | .setmode pin mode => execSetmodeWith P pin mode s
  | .wrport port byte => execWrportWith P port byte s
  | .wrpin pin value => execWrpinWith P pin value s
  | .sampd port force => execSampdWith P port force s
  | .sampa pin => execSampaWith P pin s
  | .repd port enable => execRepd port enable s
  | .repa pin enable => execRepa pin enable s
  | .qpin pin => execQpinWith P pin s
  | .qport port => execQport port s

/-- The step of a hardware with parameters `P` (R8, R72, R99). -/
def stepWith (P : Params) (s : State) : Host.Outcome State Fault Refusal := s.runInput P (execWith P)

end Sys2Proof.Machine
end

