-- ==== Sys2Proof/Machine/Environment.lean ====
section
/-! DEFINITION. What lies past the bank-side lines: which circuit of an attached bank is active, what its outputs show, when a
sample is the level of a channel (spec 10_state.md R25, R34; 20_memory.md R76; 40_bank_driver.md R131; 60_exceptions.md R223;
70_reset_and_hazards.md R244, R247; 93_implementation_defined.md U1, U3).  No rule of the block reads any of this. -/

namespace Sys2Proof.Machine

/-- What the model says of the physical output of a channel. -/
inductive PhysicalOutput where
  /-- The bank shows this level (R34, R131). -/
  | driven (level : Level)
  /-- The bank does not drive the output (R131). -/
  | notDriven
  /-- Any value: the model says nothing of the output (R247, U3; log 18). -/
  | anyValue
  deriving DecidableEq, Repr

/-- The bank's write circuit is active: `SEL[b]` = 1 for banks 1 to 3, the jumper at DigitalOut for banks 4 to 6 (R34). -/
def State.writeCircuitActive (s : State) (P : Params) (b : BankId) : Bool :=
  match s.sel b with
  | some level => level
  | none => P.jumper b == .digitalOut

/-- The bank's read circuit is active: `SEL[b]` = 0 for banks 1 to 3, the jumper at an input mode for banks 4 to 6 (R76). -/
def State.readCircuitActive (s : State) (P : Params) (b : BankId) : Bool :=
  match s.sel b with
  | some level => !level
  | none => isDigitalInput (P.jumper b) || P.jumper b == .analogIn

/-- The jumper agrees with the mode, which for banks 4 to 6 the block cannot check; banks 1 to 3 have none (R25, R223, R244, R247). -/
def State.jumperMatches (s : State) (P : Params) (b : BankId) : Bool :=
  bankNumber b ≤ 3 || (s.bank b).mode == P.jumper b

/-- The physical output of a channel.  While the mode of one of banks 4 to 6 differs from its jumper it is any value (R223, R247,
U3); R34 and R131, read alone, would go by the jumper there, and that R247 and U3 decide is the model's reading (log 18).  Otherwise
the output shows `Q[b][c]` while the bank's write circuit is active, and the bank does not drive it while it is not (R34, R131). -/
def State.channelOutput (s : State) (P : Params) (b : BankId) (c : ChanId) : PhysicalOutput :=
  if !s.jumperMatches P b then .anyValue
  else if s.writeCircuitActive P b then .driven ((s.att b).q.getLsbD c.val)
  else .notDriven

/-- The bank presents channel `c` on `DATA[b]`: its jumper matches, its read circuit is active, the controller does not drive the line
and the address stands on its bus.  Only then is `Sample(b)` the inverse of the channel's logical level (R76).  In every other
configuration, a Disabled bank included, the sample is any value (R76, U1, U3); the model ties it to nothing in either case (log 12). -/
def State.presentsChannel (s : State) (P : Params) (b : BankId) (c : ChanId) : Bool :=
  s.jumperMatches P b && ((s.bank b).mode != .disabled &&
    (s.readCircuitActive P b && (!s.dataDir b && s.addr (busOf P b) == BitVec.ofNat 4 c.val)))

/-- The analog bank presents channel `c`: only then is `ASample(b)` the conversion of the channel's level, and off the analog bank it
is any value (R76, R128, U1; log 12). -/
def State.presentsAnalog (s : State) (P : Params) (b : BankId) (c : ChanId) : Bool :=
  b == analogBank && s.presentsChannel P b c

end Sys2Proof.Machine
end

