-- ==== Sys2Proof/Machine/HostLoop.lean ====
section
/-! DEFINITION. The host's control loop as the commands of one iteration (spec 70_reset_and_hazards.md R261).  The loop is the
host's: the block has no scheduler, and the interval values are out of scope (00_scope.md R5). -/

namespace Sys2Proof.Machine

/-- The three rate-limited tasks of an iteration (R261). -/
inductive HostTask where
  | digitalSampling
  | messageDraining
  | analogSampling
  deriving DecidableEq, Repr

/-- The fixed order of the tasks (R261). -/
def hostTaskOrder : List HostTask := [.digitalSampling, .messageDraining, .analogSampling]

/-- The commands an inbound protocol message becomes (R261). -/
def isInboundCommand : Instr → Bool
  | .setmode _ _ => true
  | .wrport _ _ => true
  | .wrpin _ _ => true
  | .repa _ _ => true
  | .repd _ _ => true
  | .reset => true
  | .cfg _ _ => false
  | .wrch _ _ _ => false
  | .rdd _ _ => false
  | .rda _ _ => false
  | .qbank _ => false
  | .sampd _ _ => false
  | .sampa _ => false
  | .qpin _ => false
  | .qport _ => false

/-- The commands a task issues when the machine is at `s`: `due` says that the task's interval has elapsed, `inbound` are the
messages that wait (R261).  R261 leaves open whether message draining is gated by an interval of its own: its quotation gates each of
the three tasks, its item (2) names no interval.  DESIGN CHOICE: draining follows item (2) and ignores `due` (log 9). -/
def hostTaskCommands (task : HostTask) (due : Bool) (inbound : List Instr) (s : State) : List Instr :=
  match task with
  | .digitalSampling => if due then (List.range 12).map fun k => .sampd k 0 else []
  | .messageDraining => inbound.filter isInboundCommand
  | .analogSampling => if due then ((List.range 16).filter fun p => s.analogReport.getLsbD p).map Instr.sampa else []

end Sys2Proof.Machine
end

