-- ==== Sys2Proof/Safety.lean ====
section
/-! DEFINITION. The terms claims use: what holds at every operation boundary (spec 40_bank_driver.md R132,
42_pin_port_state_machine.md R185), when an attached bank holds its frame, and which commands respond, emit or write what
(30_encoding.md R94, R96; 10_state.md R21, R22, R28, R29, R35). -/

namespace Sys2Proof.Machine

/-- What holds at every operation boundary after power-on (R132 (i), R185 (i), (iii), (iv), (v), and R99 for `CMD_READY`). -/
structure Inv (s : State) : Prop where
  /-- `outMode[b]` = 0 (R132 (i)). -/
  outModeClear : ∀ b, (s.bank b).outMode = false
  /-- `SCLK[b]` = 0 (R132 (i)). -/
  sclkLow : ∀ b, (s.bank b).sclk = false
  /-- `mode[b]` is in `BANK_CAP[b]` (R185 (v)). -/
  modeInCapability : ∀ b, (s.bank b).mode ∈ Config.bankCap b
  /-- `currentMode[p]` is in `ALLOWED[p]` (R185 (i)). -/
  pinModeAllowed : ∀ p, (s.pin p).currentMode ∈ Config.allowed p
  /-- A bit of `inputMask[k]` can be 1 only for ports 2 to 9 (R185 (iii)). -/
  inputMaskOfInputPorts : ∀ k : PortId, ¬(2 ≤ k.val ∧ k.val ≤ 9) → (s.port k).inputMask = 0
  /-- `cachedValue[p]` ≤ 1 for p ≥ 16 (R185 (iv)). -/
  digitalCache : ∀ p : PinId, 16 ≤ p.val → (s.pin p).cachedValue.toNat ≤ 1
  /-- `cachedValue[p]` < 2^AW for p ≤ 15 (R185 (iv)). -/
  analogCache : ∀ p : PinId, p.val ≤ 15 → (s.pin p).cachedValue.toNat < 2 ^ Config.AW
  /-- `CMD_READY` = 1 at an operation boundary (R99). -/
  ready : s.cmdReady = true

/-- The attached bank holds the block's frame: `SR[b]` = `shadow[b]` and `Q[b]` = `SR[b]` (R132 (ii)). -/
def Synced (s : State) (b : BankId) : Prop :=
  (s.att b).sr = (s.bank b).shadow ∧ (s.att b).q = (s.att b).sr

/-- The answer the environment gives to the `n`-th `Sample` from here, counting from 0: the listed one, else a free value. -/
def State.sampleAt (s : State) (n : Nat) : Level :=
  match s.dataIn[n]? with
  | some v => v
  | none => Config.freeSample (s.freeCount + (n - s.dataIn.length))

/-- The lines and attached banks after bank `b` has been addressed at channel `c` by a read: the flag is clear, the address stands
on the bank's bus, and a rise of bit 3 has made every bank of the bus commit (R70, R126, R128, R131). -/
def State.addressed (s : State) (P : Params) (b : BankId) (c : ChanId) : State :=
  { s with
    banks := s.banks.set b.val { s.bank b with outMode := false } b.isLt
    attached := Vector.ofFn fun b' =>
      if busOf P b' = busOf P b ∧ s.latchLine (busOf P b) = false ∧ 8 ≤ c.val then { sr := (s.att b').sr, q := (s.att b').sr }
      else s.att b'
    addrP := if busOf P b = .primary then BitVec.ofNat 4 c.val else s.addrP
    addrS := if busOf P b = .secondary then BitVec.ofNat 4 c.val else s.addrS }

/-- The records, lines and attached banks after one full frame `f` of bank `b` has been shifted and latched, with `x` in the bank's
shift stage: the other banks of the bus commit what they hold (R123, R125, R131). -/
def State.framed (s : State) (P : Params) (b : BankId) (f x : Frame) : State :=
  { s with
    banks := s.banks.set b.val
      { s.bank b with shadow := f, outMode := false, dataOut := f.getLsbD 0, sclk := false } b.isLt
    attached := Vector.ofFn fun b' =>
      if busOf P b' = busOf P b then
        { sr := if b' = b then x else (s.att b').sr, q := if b' = b then x else (s.att b').sr }
      else s.att b'
    addrP := if busOf P b = .primary then setBit s.addrP 3 false else s.addrP
    addrS := if busOf P b = .secondary then setBit s.addrS 3 false else s.addrS }

/-- The commands that respond (R94, R96). -/
def responds : Instr → Bool
  | .rdd _ _ => true
  | .rda _ _ => true
  | .qbank _ => true
  | .qpin _ => true
  | .qport _ => true
  | .cfg _ _ => false
  | .wrch _ _ _ => false
  | .reset => false
  | .setmode _ _ => false
  | .wrport _ _ => false
  | .wrpin _ _ => false
  | .sampd _ _ => false
  | .sampa _ => false
  | .repd _ _ => false
  | .repa _ _ => false

/-- The commands that may emit an event (R94, R186). -/
def mayEmit : Instr → Bool
  | .sampd _ _ => true
  | .sampa _ => true
  | .cfg _ _ => false
  | .wrch _ _ _ => false
  | .rdd _ _ => false
  | .rda _ _ => false
  | .qbank _ => false
  | .reset => false
  | .setmode _ _ => false
  | .wrport _ _ => false
  | .wrpin _ _ => false
  | .repd _ _ => false
  | .repa _ _ => false
  | .qpin _ => false
  | .qport _ => false

/-- The commands that may write a bank's mode (R21). -/
def mayWriteBankMode : Instr → Bool
  | .cfg _ _ => true
  | .setmode _ _ => true
  | .wrch _ _ _ => false
  | .rdd _ _ => false
  | .rda _ _ => false
  | .qbank _ => false
  | .reset => false
  | .wrport _ _ => false
  | .wrpin _ _ => false
  | .sampd _ _ => false
  | .sampa _ => false
  | .repd _ _ => false
  | .repa _ _ => false
  | .qpin _ => false
  | .qport _ => false

/-- The commands that may write a bank's shadow (R22). -/
def mayWriteShadow : Instr → Bool
  | .wrch _ _ _ => true
  | .wrport _ _ => true
  | .wrpin _ _ => true
  | .cfg _ _ => false
  | .rdd _ _ => false
  | .rda _ _ => false
  | .qbank _ => false
  | .reset => false
  | .setmode _ _ => false
  | .sampd _ _ => false
  | .sampa _ => false
  | .repd _ _ => false
  | .repa _ _ => false
  | .qpin _ => false
  | .qport _ => false

/-- The commands that may write a pin's current mode (R28, R184). -/
def mayWritePinMode : Instr → Bool
  | .reset => true
  | .setmode _ _ => true
  | .cfg _ _ => false
  | .wrch _ _ _ => false
  | .rdd _ _ => false
  | .rda _ _ => false
  | .qbank _ => false
  | .wrport _ _ => false
  | .wrpin _ _ => false
  | .sampd _ _ => false
  | .sampa _ => false
  | .repd _ _ => false
  | .repa _ _ => false
  | .qpin _ => false
  | .qport _ => false

/-- The commands that may write a cached value (R29). -/
def mayWriteCache : Instr → Bool
  | .reset => true
  | .setmode _ _ => true
  | .wrport _ _ => true
  | .wrpin _ _ => true
  | .sampa _ => true
  | .cfg _ _ => false
  | .wrch _ _ _ => false
  | .rdd _ _ => false
  | .rda _ _ => false
  | .qbank _ => false
  | .sampd _ _ => false
  | .repd _ _ => false
  | .repa _ _ => false
  | .qpin _ => false
  | .qport _ => false

/-- The pin-level commands, opcodes 0x20 to 0x29: a host that issues no other keeps the ownership of R35. -/
def pinLevel (i : Instr) : Bool := decide (0x20 ≤ i.opcode.code.toNat)

/-- Every pin of a port is driven as an output (R176). -/
def portIsOutput (s : State) (k : PortId) (i : Fin 8) : Bool := (s.pin (portPin k i)).currentMode == .digitalOut

end Sys2Proof.Machine
end

