-- ==== Sys2Proof/Certificates/Slice0/Obligations.lean ====
section
/-! DEFINITION. The statements for the provers, from the numbered rules of spec/.  A bank, channel, pin or port quantified by its
index type is a valid operand (its number is the index, `bankNumber` for a bank); a natural number operand is any operand. -/

open Sys2Proof Sys2Proof.Machine

/-! ### Encoding -/

/-- Decoding the word of a well-formed command gives the command back (R90, R94, R100). -/
def Obligations.DecodeOfEncodeIsIdentity : Prop :=
  ∀ i : Instr, i.wellFormed = true → decode (encode i) = .ok i

/-- R91 with the fields of R90 and the operand columns of R94: each opcode reads its operands as unsigned bytes and ignores the
fields it does not use. -/
def Obligations.OperandsAreUnsignedAndUnusedFieldsIgnored : Prop :=
  ∀ a b c : BitVec 8,
    decode ((0x10 : BitVec 8) ++ a ++ b ++ c) = .ok (.cfg a.toNat b.toNat) ∧
    decode ((0x11 : BitVec 8) ++ a ++ b ++ c) = .ok (.wrch a.toNat b.toNat c.toNat) ∧
    decode ((0x12 : BitVec 8) ++ a ++ b ++ c) = .ok (.rdd a.toNat b.toNat) ∧
    decode ((0x13 : BitVec 8) ++ a ++ b ++ c) = .ok (.rda a.toNat b.toNat) ∧
    decode ((0x14 : BitVec 8) ++ a ++ b ++ c) = .ok (.qbank a.toNat) ∧
    decode ((0x20 : BitVec 8) ++ a ++ b ++ c) = .ok .reset ∧
    decode ((0x21 : BitVec 8) ++ a ++ b ++ c) = .ok (.setmode a.toNat b.toNat) ∧
    decode ((0x22 : BitVec 8) ++ a ++ b ++ c) = .ok (.wrport a.toNat b) ∧
    decode ((0x23 : BitVec 8) ++ a ++ b ++ c) = .ok (.wrpin a.toNat b.toNat) ∧
    decode ((0x24 : BitVec 8) ++ a ++ b ++ c) = .ok (.sampd a.toNat b.toNat) ∧
    decode ((0x25 : BitVec 8) ++ a ++ b ++ c) = .ok (.sampa a.toNat) ∧
    decode ((0x26 : BitVec 8) ++ a ++ b ++ c) = .ok (.repd a.toNat b.toNat) ∧
    decode ((0x27 : BitVec 8) ++ a ++ b ++ c) = .ok (.repa a.toNat b.toNat) ∧
    decode ((0x28 : BitVec 8) ++ a ++ b ++ c) = .ok (.qpin a.toNat) ∧
    decode ((0x29 : BitVec 8) ++ a ++ b ++ c) = .ok (.qport a.toNat)

/-- The assembled examples of R100 decode to the commands they are written as. -/
def Obligations.AssembledExamplesDecode : Prop :=
  decode 0x11060501 = .ok (.wrch 6 5 1) ∧ decode 0x21140200 = .ok (.setmode 20 2) ∧ decode 0x20000000 = .ok .reset ∧
    decode 0x24020000 = .ok (.sampd 2 0)

/-! ### The sequencer and the host-side ports -/

/-- A presented command word is accepted once and its command runs to completion: the step is `exec` of the decoded command at the
state with the word taken, the pulses of the step before over and `CMD_READY` low, followed by `CMD_READY` and one `DONE` (R72, R99). -/
def Obligations.StepRunsDecodedCommand : Prop :=
  ∀ (s : State) (w : BitVec 32) (rest : List HostInput) (i : Instr),
    s.cmdReady = true → s.input = .command w :: rest → decode w = .ok i →
    step s =
      match exec i { s with input := rest, cmdReady := false, done := false, rsp := [], evt := [], trace := [] } with
      | .next t => .next { t with cmdReady := true, done := true }
      | .fault r => .fault r
      | .refused r => .refused r

/-- R95: the reserved opcodes are exactly the listed ones, and a command with one changes nothing, answers nothing and completes. -/
def Obligations.ReservedOpcodeCompletesAsNoOp : Prop :=
  (∀ w : BitVec 32,
    (∃ e, decode w = .error e) ↔
      ((w.extractLsb' 24 8).toNat ≤ 0x0F ∨ (0x15 ≤ (w.extractLsb' 24 8).toNat ∧ (w.extractLsb' 24 8).toNat ≤ 0x1F) ∨
        0x2A ≤ (w.extractLsb' 24 8).toNat)) ∧
  (∀ (s : State) (w : BitVec 32) (rest : List HostInput) (e : DecodeReject),
    s.cmdReady = true → s.input = .command w :: rest → decode w = .error e →
    step s = .next { s with input := rest, cmdReady := true, done := true, rsp := [], evt := [], trace := [] })

/-- With nothing presented the block waits: only the pulses of the step before end (R99, R225, R243).  The second clause is the model's
choice, not a rule's: in a state whose `CMD_READY` is 0, which no run reaches, a presented command word waits (log 2).  That an idle
step ends the pulses is the model's choice too (log 13), as is the list of inputs (log 1). -/
def Obligations.BlockWaitsWithoutAcceptedCommand : Prop :=
  (∀ s : State, s.input = [] → step s = .next { s with done := false, rsp := [], evt := [], trace := [] }) ∧
  (∀ (s : State) (w : BitVec 32) (rest : List HostInput), s.cmdReady = false → s.input = .command w :: rest →
    step s = .next { s with done := false, rsp := [], evt := [], trace := [] })

/-- Every command, whatever its operands, completes and signals `DONE`: no command faults or is refused, and neither does a step (R220). -/
def Obligations.EveryCommandCompletes : Prop :=
  (∀ (i : Instr) (s : State), ∃ t, exec i s = .next t) ∧
  (∀ s : State, ∃ t, step s = .next t) ∧
  (∀ (s : State) (w : BitVec 32) (rest : List HostInput), s.cmdReady = true → s.input = .command w :: rest →
    ∃ t, step s = .next t ∧ t.done = true ∧ t.cmdReady = true)

/-- `RST` at an operation boundary runs the power-on sequence: the block is as at reset, the attached banks keep what they hold
(R241, power-on column of R38). -/
def Obligations.PowerOnSequenceGivesResetState : Prop :=
  ∀ (s : State) (rest : List HostInput), s.input = .rst :: rest →
    step s = .next { State.reset with
      attached := s.attached, input := rest, dataIn := s.dataIn, adcIn := s.adcIn, freeCount := s.freeCount }

/-- `RST` during a command abandons it without `DONE`, response or event, and the block is as at reset (R240, R241).  The line steps
made are the first `n` of the command's. -/
def Obligations.RstAbandonsCommand : Prop :=
  ∀ (s : State) (w : BitVec 32) (n : Nat) (rest : List HostInput), s.cmdReady = true → s.input = .commandCut w n :: rest →
    ∃ t, step s = .next t ∧ t.banks = State.reset.banks ∧ t.pins = State.reset.pins ∧ t.ports = State.reset.ports ∧
      t.analogReport = 0 ∧ t.addrP = 0 ∧ t.addrS = 0 ∧ t.cmdReady = true ∧ t.done = false ∧ t.rsp = [] ∧ t.evt = [] ∧
      t.input = rest ∧ (∀ i, decode w = .ok i → t.trace = (lineSteps Config.hw i s).take n) ∧
      ((∀ i, decode w ≠ .ok i) → t.trace = [])

/-- `RST` during a `WRCH` on a driven bank: `Q` is the previous frame when the cut came before the latch edge, the 52nd step, and
the new frame after it (R263; the step number is R136's count).  Nothing is said of `SR` (U8). -/
def Obligations.RstDuringWriteKeepsOrCommitsFrame : Prop :=
  ∀ (s : State) (w : BitVec 32) (n v : Nat) (rest : List HostInput) (b : BankId) (c : ChanId),
    s.cmdReady = true → s.input = .commandCut w n :: rest → decode w = .ok (.wrch (bankNumber b) c.val v) →
    (s.bank b).sclk = false → (s.bank b).mode = .digitalOut →
    ∃ t, step s = .next t ∧
      (t.att b).q = if n < 52 then (s.att b).q else setBit (s.bank b).shadow c.val (v != 0)

/-! ### The Bank Driver -/

/-- R121: `CFG` writes the mode when the bank's capability holds it, and is a no-op for every other operand. -/
def Obligations.CfgWritesModeWithinCapability : Prop :=
  (∀ a b c : BitVec 8, decode ((0x10 : BitVec 8) ++ a ++ b ++ c) = .ok (.cfg a.toNat b.toNat)) ∧
  (∀ (s : State) (b : BankId) (m : Mode), m ∈ Config.bankCap b →
    exec (.cfg (bankNumber b) (modeCode m).toNat) s = .next
      { s with
        banks := s.banks.set b.val { s.bank b with mode := m } b.isLt
        trace := s.trace ++ [.setMode b m] }) ∧
  (∀ (s : State) (bank mode : Nat),
    (∀ (b : BankId) (m : Mode), bank = bankNumber b → mode = (modeCode m).toNat → m ∉ Config.bankCap b) →
    exec (.cfg bank mode) s = .next s)

/-- R122: `SEL` (banks 1 to 3 only), `DATA_DIR` and `DATA_PU` as functions of the mode, in the rule's table; and under the invariant
of this hardware `SEL` is never high. -/
def Obligations.ModeDrivesSelectDirectionAndPullup : Prop :=
  (∀ (s : State) (b : BankId),
    s.dataDir b = decide ((s.bank b).mode = .digitalOut) ∧ s.dataPu b = decide ((s.bank b).mode = .digitalInPullup) ∧
      s.sel b = if bankNumber b ≤ 3 then some (decide ((s.bank b).mode = .digitalOut)) else none) ∧
  (∀ s : State, Inv s → ∀ b : BankId, s.sel b ≠ some true)

/-- R123, R124, R125: the 54 steps of a `WRCH`, with one rise of the latch line, for any parameters. -/
def Obligations.WrchStepsAreOneFrameAndOneLatchPulse : Prop :=
  ∀ (P : Params) (b : BankId) (c : ChanId) (v : Bool) (sh : BitVec 16),
    wrchSteps P b c v sh =
      [.setShadow b c v, .outMode b true, .latch (busOf P b) false] ++
      (List.range 16).flatMap (fun j =>
        [.dataOut b ((setBit sh c.val v).getLsbD (15 - j)), .sclk b true, .sclk b false]) ++
      [.latch (busOf P b) true, .latch (busOf P b) false, .outMode b false]

/-- R123 with the effect of R131: a valid `WRCH` on a bank whose clock is low performs the rule's steps in its order: it updates the
shadow, shifts the whole frame and commits it on the bus.  The shift stage ends with the frame when the controller drives the line,
with any value otherwise; the bank's mode is not tested.  Out of range it is a no-op. -/
def Obligations.WrchShiftsAndCommitsFrame : Prop :=
  (∀ a b c : BitVec 8, decode ((0x11 : BitVec 8) ++ a ++ b ++ c) = .ok (.wrch a.toNat b.toNat c.toNat)) ∧
  (∀ (s : State) (b : BankId) (c : ChanId) (v : Nat), (s.bank b).sclk = false →
    ∃ x : BitVec 16, ((s.bank b).mode = .digitalOut → x = setBit (s.bank b).shadow c.val (v != 0)) ∧
      exec (.wrch (bankNumber b) c.val v) s = .next
        { s.framed Config.hw b (setBit (s.bank b).shadow c.val (v != 0)) x with
          trace := s.trace ++
            ([.setShadow b c (v != 0), .outMode b true, .latch (busOf Config.hw b) false] ++
              (List.range 16).flatMap (fun j =>
                [.dataOut b ((setBit (s.bank b).shadow c.val (v != 0)).getLsbD (15 - j)), .sclk b true, .sclk b false]) ++
              [.latch (busOf Config.hw b) true, .latch (busOf Config.hw b) false, .outMode b false])
          freeCount := if (s.bank b).mode = .digitalOut then s.freeCount else s.freeCount + 16 }) ∧
  (∀ (s : State) (bank chan v : Nat), bank = 0 ∨ 6 < bank ∨ 15 < chan → exec (.wrch bank chan v) s = .next s)

/-- R126, R127: a valid `RDD` clears the flag, presents the address, samples once and responds with the inverse of the level; out of
range it responds with the sentinel and moves no line. -/
def Obligations.RddRespondsWithInvertedSample : Prop :=
  (∀ a b c : BitVec 8, decode ((0x12 : BitVec 8) ++ a ++ b ++ c) = .ok (.rdd a.toNat b.toNat)) ∧
  (∀ (s : State) (b : BankId) (c : ChanId),
    exec (.rdd (bankNumber b) c.val) s = .next
      { s.addressed Config.hw b c with
        trace := s.trace ++ [.outMode b false, .address (busOf Config.hw b) c, .sample b]
        dataIn := s.dataIn.drop 1
        freeCount := s.freeCount + (1 - s.dataIn.length)
        rsp := s.rsp ++ [if s.sampleAt 0 then 0 else 1] }) ∧
  (∀ (s : State) (bank chan : Nat), bank = 0 ∨ 6 < bank ∨ 15 < chan →
    exec (.rdd bank chan) s = .next { s with rsp := s.rsp ++ [0x1FFFFFFFF] })

/-- R128: a valid `RDA` clears the flag, presents the address, samples once and responds with the raw sample of `AW` bits; out of
range it responds with the sentinel and moves no line. -/
def Obligations.RdaRespondsWithRawSample : Prop :=
  (∀ a b c : BitVec 8, decode ((0x13 : BitVec 8) ++ a ++ b ++ c) = .ok (.rda a.toNat b.toNat)) ∧
  (∀ (s : State) (b : BankId) (c : ChanId), ∃ v : BitVec 16, v = s.asampleValue Config.hw ∧ v.toNat < 2 ^ Config.AW ∧
    exec (.rda (bankNumber b) c.val) s = .next
      { s.addressed Config.hw b c with
        trace := s.trace ++ [.outMode b false, .address (busOf Config.hw b) c, .asample b]
        adcIn := s.adcIn.drop 1
        freeCount := s.freeCount + (1 - s.adcIn.length)
        rsp := s.rsp ++ [v.setWidth 33] }) ∧
  (∀ (s : State) (bank chan : Nat), bank = 0 ∨ 6 < bank ∨ 15 < chan →
    exec (.rda bank chan) s = .next { s with rsp := s.rsp ++ [0x1FFFFFFFF] })

/-- R129: `QBANK` responds with the bank's record, bit by bit, and changes nothing else; out of range with the sentinel. -/
def Obligations.QbankRespondsWithBankRecord : Prop :=
  (∀ a b c : BitVec 8, decode ((0x14 : BitVec 8) ++ a ++ b ++ c) = .ok (.qbank a.toNat)) ∧
  (∀ (s : State) (b : BankId), ∃ r : BitVec 33,
    exec (.qbank (bankNumber b)) s = .next { s with rsp := s.rsp ++ [r] } ∧
      r.extractLsb' 0 16 = (s.bank b).shadow ∧ r.extractLsb' 16 3 = modeCode (s.bank b).mode ∧
      r.getLsbD 19 = (s.bank b).outMode ∧ r.extractLsb' 20 13 = 0) ∧
  (∀ (s : State) (bank : Nat), bank = 0 ∨ 6 < bank → exec (.qbank bank) s = .next { s with rsp := s.rsp ++ [0x1FFFFFFFF] })

/-- R165: an operation on a bank changes no register of another bank, no line of the other bus, no bank of the other bus, and no pin
or port record; on its own bus it can only make the other banks commit what they hold.  `CFG` changes the bank's mode and no other
register of it, no address and no attached bank; the other operations never change the mode, which drives `SEL`, `DATA_DIR` and
`DATA_PU`. -/
def Obligations.BankOperationIsConfinedToItsBankAndBus : Prop :=
  ∀ (s t : State) (b : BankId) (i : Instr),
    (∃ x y, i = .cfg (bankNumber b) x ∨ i = .wrch (bankNumber b) x y ∨ i = .rdd (bankNumber b) x ∨
      i = .rda (bankNumber b) x ∨ i = .qbank (bankNumber b)) →
    exec i s = .next t →
    ((∃ m, i = .cfg (bankNumber b) m) →
      t.addr (busOf Config.hw b) = s.addr (busOf Config.hw b) ∧ t.attached = s.attached ∧
        t.bank b = { s.bank b with mode := (t.bank b).mode }) ∧
    ((∀ m, i ≠ .cfg (bankNumber b) m) → (t.bank b).mode = (s.bank b).mode) ∧
    (∀ b' : BankId, b' ≠ b →
      t.bank b' = s.bank b' ∧ (t.att b').sr = (s.att b').sr ∧
      ((t.att b').q = (s.att b').q ∨ (busOf Config.hw b' = busOf Config.hw b ∧ (t.att b').q = (s.att b').sr))) ∧
    (∀ x : Bus, x ≠ busOf Config.hw b → t.addr x = s.addr x) ∧
    t.pins = s.pins ∧ t.ports = s.ports ∧ t.analogReport = s.analogReport

/-- R136: the line steps of the bank-level commands, by number; a rejected form has none. -/
def Obligations.LineStepCounts : Prop :=
  (∀ (s : State) (b : BankId) (c : ChanId) (v : Nat),
    (lineSteps Config.hw (.wrch (bankNumber b) c.val v) s).length = 54 ∧ (lineSteps Config.hw (.rdd (bankNumber b) c.val) s).length = 3 ∧
      (lineSteps Config.hw (.rda (bankNumber b) c.val) s).length = 3) ∧
  (∀ (s : State) (b : BankId) (m : Mode), m ∈ Config.bankCap b →
    (lineSteps Config.hw (.cfg (bankNumber b) (modeCode m).toNat) s).length = 1) ∧
  (∀ (s : State) (bank chan v : Nat), bank = 0 ∨ 6 < bank ∨ 15 < chan →
    lineSteps Config.hw (.wrch bank chan v) s = [] ∧ lineSteps Config.hw (.rdd bank chan) s = [] ∧ lineSteps Config.hw (.rda bank chan) s = []) ∧
  (∀ (s : State) (bank mode : Nat),
    (∀ (b : BankId) (m : Mode), bank = bankNumber b → mode = (modeCode m).toNat → m ∉ Config.bankCap b) →
    lineSteps Config.hw (.cfg bank mode) s = [])

/-- The steps recorded while a command runs are exactly its line steps (R72, R136, R170). -/
def Obligations.CommandPerformsItsLineSteps : Prop :=
  ∀ (i : Instr) (s t : State), exec i s = .next t → t.trace = s.trace ++ lineSteps Config.hw i s

/-! ### The Pin/Port State Machine -/

/-- R171, R172, R173: `RESET` rewrites the port records, `analogReport` and the pin records from the banks' modes and nothing else. -/
def Obligations.ResetDerivesRecordsFromBankModes : Prop :=
  (∀ a b c : BitVec 8, decode ((0x20 : BitVec 8) ++ a ++ b ++ c) = .ok .reset) ∧
  ∀ s : State,
    exec .reset s = .next
      { s with
        analogReport := 0
        ports := Vector.ofFn fun k =>
          if (s.bank (portBank k)).mode = .digitalIn ∨ (s.bank (portBank k)).mode = .digitalInPullup then
            { reportEnabled := true, inputMask := 0xFF, previousSentValue := 0 }
          else { reportEnabled := false, inputMask := 0, previousSentValue := 0 }
        pins := Vector.ofFn fun p =>
          if p.val ≤ 15 then { currentMode := .analogIn, cachedValue := 0 }
          else if 80 ≤ p.val then { currentMode := .digitalOut, cachedValue := 0 }
          else if (s.bank (bankOf Config.hw p)).mode = .digitalInPullup then { currentMode := .digitalInPullup, cachedValue := 1 }
          else { currentMode := .digitalIn, cachedValue := 0 } }

/-- `RESET` twice in succession gives what it gives once (the source's property quoted in R171). -/
def Obligations.ResetIsIdempotent : Prop :=
  ∀ s : State, ∃ t, exec .reset s = .next t ∧ exec .reset t = .next t

/-- R251: after `RESET` the cache of every output pin is 0 while the shadows, the lines and the attached banks keep their values. -/
def Obligations.ResetKeepsOutputsButClearsTheirCache : Prop :=
  ∀ s : State, ∃ t, exec .reset s = .next t ∧ t.banks = s.banks ∧ t.attached = s.attached ∧ t.addrP = s.addrP ∧ t.addrS = s.addrS ∧
    ∀ p : PinId, 80 ≤ p.val → (t.pin p).cachedValue = 0

/-- R174, R175: `SETMODE` of an allowed mode writes the pin's record, its input mask bit and the bank's mode; of a known mode that is
not allowed it changes nothing; of a raw code 5 and above it clears the cache; out of range, and of an excluded pin on a hardware whose
parameters exclude it, it is a no-op.  For a known mode that is not allowed this is the spec's decision D28 (U6). -/
def Obligations.SetmodeFollowsCapability : Prop :=
  (∀ a b c : BitVec 8, decode ((0x21 : BitVec 8) ++ a ++ b ++ c) = .ok (.setmode a.toNat b.toNat)) ∧
  (∀ (s : State) (p : PinId) (m : Mode), m ∈ Config.allowed p →
    exec (.setmode p.val (modeCode m).toNat) s = .next
      { s with
        pins := s.pins.set p.val { currentMode := m, cachedValue := if m = .digitalInPullup then 1 else 0 } p.isLt
        ports := s.ports.set (portOf Config.hw p).val
          { s.port (portOf Config.hw p) with
            inputMask := setBit (s.port (portOf Config.hw p)).inputMask (p.val % 8) (decide (m = .digitalIn ∨ m = .digitalInPullup)) }
          (portOf Config.hw p).isLt
        banks := s.banks.set (bankOf Config.hw p).val { s.bank (bankOf Config.hw p) with mode := m } (bankOf Config.hw p).isLt
        trace := s.trace ++ [.setMode (bankOf Config.hw p) m] }) ∧
  (∀ (s : State) (p : PinId) (m : Mode), m ∉ Config.allowed p → exec (.setmode p.val (modeCode m).toNat) s = .next s) ∧
  (∀ (s : State) (p : PinId) (mode : Nat), 5 ≤ mode →
    exec (.setmode p.val mode) s = .next
      { s with pins := s.pins.set p.val { s.pin p with cachedValue := 0 } p.isLt }) ∧
  (∀ (s : State) (pin mode : Nat), 95 < pin → exec (.setmode pin mode) s = .next s) ∧
  (∀ (P : Params) (s : State) (p : PinId) (mode : Nat), P.excl p = true → execWith P (.setmode p.val mode) s = .next s)

/-- An excluded pin ignores `SETMODE` altogether, raw codes included, and moves no line: exclusion is tested first (R175, R226).  `EXCL`
is a parameter, 0 for every pin of this hardware, so this is said of every hardware whose parameters exclude the pin. -/
def Obligations.ExcludedPinIgnoresSetmode : Prop :=
  ∀ (P : Params) (s : State) (p : PinId) (mode : Nat), P.excl p = true →
    execWith P (.setmode p.val mode) s = .next s ∧ lineSteps P (.setmode p.val mode) s = []

/-- R187: on a pin that accepts DigitalInPullup the synthesized write has no effect, for any parameters. -/
def Obligations.SynthesizedHighHasNoEffect : Prop :=
  ∀ (P : Params) (s : State) (p : PinId), .digitalInPullup ∈ P.allowed p → s.pinWrite P p true = s

/-- The pull-up of a bank follows the last accepted `SETMODE` on any of its pins, and no other pin's mode moves (R188). -/
def Obligations.PullupIsPerBankWhilePinModesArePerPin : Prop :=
  ∀ (s : State) (p : PinId) (m : Mode), m ∈ Config.allowed p →
    ∃ t, exec (.setmode p.val (modeCode m).toNat) s = .next t ∧ t.dataPu (bankOf Config.hw p) = decide (m = .digitalInPullup) ∧
      (t.pin p).currentMode = m ∧ ∀ q : PinId, q ≠ p → (t.pin q).currentMode = (s.pin q).currentMode

/-- R176: `WRPORT` gives every digital pin of the port its bit in the cache and writes one frame per DigitalOut pin, so that the
shadow holds the byte's bits on those channels; with no DigitalOut pin no line moves.  Out of range it is a no-op. -/
def Obligations.WrportUpdatesCachesAndOutputs : Prop :=
  (∀ (s : State) (k : PortId) (byte : BitVec 8), (s.bank (portBank k)).sclk = false →
    ∃ f x : BitVec 16,
      (∀ c : ChanId, f.getLsbD c.val =
        if c.val / 8 = k.val % 2 ∧ portIsOutput s k ⟨c.val % 8, by omega⟩ = true then byte.getLsbD (c.val % 8)
        else (s.bank (portBank k)).shadow.getLsbD c.val) ∧
      ((s.bank (portBank k)).mode = .digitalOut → x = f) ∧
      exec (.wrport k.val byte) s = .next
        { (if ∃ i : Fin 8, portIsOutput s k i = true then s.framed Config.hw (portBank k) f x else s) with
          pins := Vector.ofFn fun p =>
            if p.val / 8 = k.val ∧ ((s.pin p).currentMode = .digitalIn ∨ (s.pin p).currentMode = .digitalInPullup ∨
                (s.pin p).currentMode = .digitalOut) then
              { s.pin p with cachedValue := if byte.getLsbD (p.val % 8) then 1 else 0 }
            else s.pin p
          trace := s.trace ++ lineSteps Config.hw (.wrport k.val byte) s
          freeCount :=
            if (s.bank (portBank k)).mode = .digitalOut then s.freeCount
            else s.freeCount + 16 * ((List.finRange 8).filter (portIsOutput s k)).length }) ∧
  (∀ (s : State) (port : Nat) (byte : BitVec 8), 11 < port → exec (.wrport port byte) s = .next s)

/-- R177: `WRPIN` of an output pin in DigitalOut mode updates its cache and performs exactly one `WRCH`; every other pin is left
alone. -/
def Obligations.WrpinWritesOneOutputPin : Prop :=
  (∀ a b c : BitVec 8, decode ((0x23 : BitVec 8) ++ a ++ b ++ c) = .ok (.wrpin a.toNat b.toNat)) ∧
  (∀ (s : State) (p : PinId) (v : Nat), 80 ≤ p.val → (s.pin p).currentMode = .digitalOut → (s.bank (bankOf Config.hw p)).sclk = false →
    ∃ x : BitVec 16, ((s.bank (bankOf Config.hw p)).mode = .digitalOut → x = setBit (s.bank (bankOf Config.hw p)).shadow (p.val % 16) (v != 0)) ∧
      exec (.wrpin p.val v) s = .next
        { s.framed Config.hw (bankOf Config.hw p) (setBit (s.bank (bankOf Config.hw p)).shadow (p.val % 16) (v != 0)) x with
          pins := s.pins.set p.val { s.pin p with cachedValue := if v = 0 then 0 else 1 } p.isLt
          trace := s.trace ++ wrchSteps Config.hw (bankOf Config.hw p) (chanOf Config.hw p) (v != 0) (s.bank (bankOf Config.hw p)).shadow
          freeCount := if (s.bank (bankOf Config.hw p)).mode = .digitalOut then s.freeCount else s.freeCount + 16 }) ∧
  (∀ (s : State) (p : PinId) (v : Nat), p.val < 80 ∨ (s.pin p).currentMode ≠ .digitalOut → exec (.wrpin p.val v) s = .next s) ∧
  (∀ (s : State) (pin v : Nat), 95 < pin → exec (.wrpin pin v) s = .next s)

/-- R178: `SAMPD` of an enabled port makes eight reads, masks the byte, and emits and records it when it differs from the last one
sent or is forced; of a port that is not enabled, or out of range, it does nothing. -/
def Obligations.SampdReportsMaskedChanges : Prop :=
  (∀ a b c : BitVec 8, decode ((0x24 : BitVec 8) ++ a ++ b ++ c) = .ok (.sampd a.toNat b.toNat)) ∧
  (∀ (s : State) (k : PortId) (force : Nat), (s.port k).reportEnabled = true →
    ∃ v : BitVec 8, (∀ i : Fin 8, v.getLsbD i.val = (!s.sampleAt i.val && (s.port k).inputMask.getLsbD i.val)) ∧
      exec (.sampd k.val force) s = .next
        { s.addressed Config.hw (portBank k) (portChan k 7) with
          trace := s.trace ++ (List.finRange 8).flatMap (fun i =>
            [.outMode (portBank k) false, .address (busOf Config.hw (portBank k)) (portChan k i), .sample (portBank k)])
          dataIn := s.dataIn.drop 8
          freeCount := s.freeCount + (8 - s.dataIn.length)
          evt := if v ≠ (s.port k).previousSentValue ∨ force ≠ 0 then
              s.evt ++ [(0 : BitVec 1) ++ BitVec.ofNat 8 k.val ++ v.setWidth 16]
            else s.evt
          ports := if v ≠ (s.port k).previousSentValue ∨ force ≠ 0 then
              s.ports.set k.val { s.port k with previousSentValue := v } k.isLt
            else s.ports }) ∧
  (∀ (s : State) (k : PortId) (force : Nat), (s.port k).reportEnabled = false → exec (.sampd k.val force) s = .next s) ∧
  (∀ (s : State) (port force : Nat), 11 < port → exec (.sampd port force) s = .next s)

/-- Change suppression (the source's properties quoted in R178): with the same eight samples twice, the second unforced `SAMPD` emits
nothing, and a forced one emits exactly once. -/
def Obligations.StableInputIsReportedOnce : Prop :=
  ∀ (s : State) (k : PortId), (s.port k).reportEnabled = true → (∀ i : Fin 8, s.sampleAt i.val = s.sampleAt (i.val + 8)) →
    ∃ t u v : State, exec (.sampd k.val 0) s = .next t ∧ exec (.sampd k.val 0) t = .next u ∧ exec (.sampd k.val 1) t = .next v ∧
      t.evt.length ≤ s.evt.length + 1 ∧ u.evt = t.evt ∧ v.evt.length = t.evt.length + 1

/-- R179: `SAMPA` of an analog pin reads bank 1 once, caches the sample, zero included, and emits it when it is not zero, whatever
`analogReport` and the last sample are; of any other pin it is a no-op. -/
def Obligations.SampaCachesAndSuppressesZero : Prop :=
  (∀ a b c : BitVec 8, decode ((0x25 : BitVec 8) ++ a ++ b ++ c) = .ok (.sampa a.toNat)) ∧
  (∀ (s : State) (c : ChanId),
    exec (.sampa c.val) s = .next
      { s.addressed Config.hw 0 c with
        trace := s.trace ++ [.outMode 0 false, .address .primary c, .asample 0]
        adcIn := s.adcIn.drop 1
        freeCount := s.freeCount + (1 - s.adcIn.length)
        pins := s.pins.set c.val { s.pin ⟨c.val, by omega⟩ with cachedValue := s.asampleValue Config.hw } (by omega)
        evt := if s.asampleValue Config.hw = 0 then s.evt
          else s.evt ++ [(1 : BitVec 1) ++ BitVec.ofNat 8 c.val ++ s.asampleValue Config.hw] }) ∧
  (∀ (s : State) (pin : Nat), 15 < pin → exec (.sampa pin) s = .next s)

/-- R180: `REPD` writes the port's report enable, any port's, and nothing else. -/
def Obligations.RepdWritesReportEnable : Prop :=
  (∀ a b c : BitVec 8, decode ((0x26 : BitVec 8) ++ a ++ b ++ c) = .ok (.repd a.toNat b.toNat)) ∧
  (∀ (s : State) (k : PortId) (e : Nat),
    exec (.repd k.val e) s = .next
      { s with ports := s.ports.set k.val { s.port k with reportEnabled := decide (e ≠ 0) } k.isLt }) ∧
  (∀ (s : State) (port e : Nat), 11 < port → exec (.repd port e) s = .next s)

/-- R181: `REPA` writes one bit of `analogReport` and nothing else; a pin above 15 is ignored. -/
def Obligations.RepaWritesAnalogReportBit : Prop :=
  (∀ a b c : BitVec 8, decode ((0x27 : BitVec 8) ++ a ++ b ++ c) = .ok (.repa a.toNat b.toNat)) ∧
  (∀ (s : State) (c : ChanId) (e : Nat), ∃ a : BitVec 16,
    (∀ d : ChanId, a.getLsbD d.val = if d = c then decide (e ≠ 0) else s.analogReport.getLsbD d.val) ∧
      exec (.repa c.val e) s = .next { s with analogReport := a }) ∧
  (∀ (s : State) (pin e : Nat), 15 < pin → exec (.repa pin e) s = .next s)

/-- R182: `QPIN` responds with the pin's record, bit by bit, and changes nothing else; out of range with the sentinel. -/
def Obligations.QpinRespondsWithPinRecord : Prop :=
  (∀ a b c : BitVec 8, decode ((0x28 : BitVec 8) ++ a ++ b ++ c) = .ok (.qpin a.toNat)) ∧
  (∀ (s : State) (p : PinId), ∃ r : BitVec 33,
    exec (.qpin p.val) s = .next { s with rsp := s.rsp ++ [r] } ∧
      r.extractLsb' 0 16 = (s.pin p).cachedValue ∧ r.extractLsb' 16 3 = modeCode (s.pin p).currentMode ∧
      r.getLsbD 19 = Config.excl p ∧ r.getLsbD 20 = (decide (p.val ≤ 15) && s.analogReport.getLsbD p.val) ∧
      r.extractLsb' 21 12 = 0) ∧
  (∀ (s : State) (pin : Nat), 95 < pin → exec (.qpin pin) s = .next { s with rsp := s.rsp ++ [0x1FFFFFFFF] })

/-- R183: `QPORT` responds with the port's record, bit by bit, and changes nothing else; out of range with the sentinel. -/
def Obligations.QportRespondsWithPortRecord : Prop :=
  (∀ a b c : BitVec 8, decode ((0x29 : BitVec 8) ++ a ++ b ++ c) = .ok (.qport a.toNat)) ∧
  (∀ (s : State) (k : PortId), ∃ r : BitVec 33,
    exec (.qport k.val) s = .next { s with rsp := s.rsp ++ [r] } ∧
      r.extractLsb' 0 8 = (s.port k).previousSentValue ∧ r.extractLsb' 8 8 = (s.port k).inputMask ∧
      r.getLsbD 16 = (s.port k).reportEnabled ∧ r.extractLsb' 17 16 = 0) ∧
  (∀ (s : State) (port : Nat), 11 < port → exec (.qport port) s = .next { s with rsp := s.rsp ++ [0x1FFFFFFFF] })

/-! ### Rules about the whole machine -/

/-- What R132 (i), R185 (i), (iii), (iv), (v) and R99 ask of an operation boundary holds at reset. -/
def Obligations.BoundaryInvariantHoldsAtReset : Prop := Inv State.reset

/-- Every step keeps what R132 (i), R185 (i), (iii), (iv), (v) and R99 ask of an operation boundary. -/
def Obligations.EveryStepKeepsBoundaryInvariant : Prop :=
  ∀ s t : State, Inv s → step s = .next t → Inv t

/-- R132 (ii), (iii): an attached bank that holds the block's frame still holds it after any command, provided the bank is driven or
the command is none that writes a shadow: no command on another bank and no read disturbs it. -/
def Obligations.SyncedBankStaysSynced : Prop :=
  ∀ (s t : State) (b : BankId) (w : BitVec 32) (rest : List HostInput),
    (s.bank b).sclk = false → Synced s b → s.cmdReady = true → s.input = .command w :: rest →
    ((s.bank b).mode = .digitalOut ∨ ∀ i, decode w = .ok i → mayWriteShadow i = false) →
    step s = .next t → Synced t b

/-- After any valid `WRCH` on a driven bank the attached bank holds the block's frame, whatever it held before (R132 (ii)). -/
def Obligations.DrivenWriteSyncsBank : Prop :=
  ∀ (s : State) (b : BankId) (c : ChanId) (v : Nat), (s.bank b).sclk = false → (s.bank b).mode = .digitalOut →
    ∃ t, exec (.wrch (bankNumber b) c.val v) s = .next t ∧ Synced t b

/-- R252: the first write to bank 6 after power-on defines all 16 outputs at once, every other one low, and copies the unspecified
shift stages of banks 4 and 5 to their output frames. -/
def Obligations.FirstWriteDefinesAllOutputs : Prop :=
  ∀ (c : ChanId) (v : Nat), ∃ t, exec (.wrch 6 c.val v) State.reset = .next t ∧
    (∀ d : ChanId, t.channelOutput Config.hw 5 d = .driven (decide (d = c) && decide (v ≠ 0))) ∧
      (t.att 3).q = (State.reset.att 3).sr ∧ (t.att 4).q = (State.reset.att 4).sr

/-- R96, R186: a run of a command puts out exactly one response when the command is one that responds and none otherwise, and at most
one event, which only `SAMPD` and `SAMPA` put out; it pulses `DONE`. -/
def Obligations.ResponsesAndEventsPerCommand : Prop :=
  ∀ (s t : State) (w : BitVec 32) (rest : List HostInput) (i : Instr),
    s.cmdReady = true → s.input = .command w :: rest → decode w = .ok i → step s = .next t →
    t.done = true ∧ t.cmdReady = true ∧ t.rsp.length = (if responds i then 1 else 0) ∧
      t.evt.length ≤ (if mayEmit i then 1 else 0)

/-- Only `CFG` and `SETMODE` write a bank's mode, only `WRCH`, `WRPIN` and `WRPORT` a shadow, only `RESET` and `SETMODE` a pin's
mode, and only `RESET`, `SETMODE`, `WRPORT`, `WRPIN` and `SAMPA` a cached value (R21, R22, R28, R29, R184). -/
def Obligations.RecordsHaveOnlyTheirWriters : Prop :=
  ∀ (i : Instr) (s t : State), exec i s = .next t →
    (mayWriteBankMode i = false → ∀ b, (t.bank b).mode = (s.bank b).mode) ∧
    (mayWriteShadow i = false → ∀ b, (t.bank b).shadow = (s.bank b).shadow) ∧
    (mayWritePinMode i = false → ∀ p, (t.pin p).currentMode = (s.pin p).currentMode) ∧
    (mayWriteCache i = false → ∀ p, (t.pin p).cachedValue = (s.pin p).cachedValue)

/-! ### The parameters and the attached banks -/

/-- This hardware's parameters have the values R8 states for them (with R27, R61, R62 and R64), all but `AW`, which is open. -/
def Obligations.ParametersHaveTheirStatedValues : Prop :=
  (∀ p : PinId, bankNumber (bankOf Config.hw p) = p.val / 16 + 1 ∧ (chanOf Config.hw p).val = p.val % 16 ∧
    (portOf Config.hw p).val = p.val / 8 ∧ (bitOf Config.hw p).val = p.val % 8) ∧
  (∀ b : BankId, busOf Config.hw b = if bankNumber b ≤ 3 then .primary else .secondary) ∧
  (∀ (b : BankId) (m : Mode), m ∈ Config.hw.bankCap b ↔
    m = .disabled ∨ (bankNumber b = 1 ∧ m = .analogIn) ∨
      (2 ≤ bankNumber b ∧ bankNumber b ≤ 5 ∧ (m = .digitalIn ∨ m = .digitalInPullup)) ∨ (bankNumber b = 6 ∧ m = .digitalOut)) ∧
  (∀ (p : PinId) (m : Mode), m ∈ Config.hw.allowed p ↔
    (p.val ≤ 15 ∧ m = .analogIn) ∨ (16 ≤ p.val ∧ p.val ≤ 79 ∧ (m = .digitalIn ∨ m = .digitalInPullup)) ∨
      (80 ≤ p.val ∧ m = .digitalOut)) ∧
  (∀ b : BankId, Config.hw.bankModeInit b =
    if bankNumber b = 1 then .analogIn else if bankNumber b = 6 then .digitalOut else .digitalIn) ∧
  (∀ p : PinId, Config.hw.excl p = false) ∧
  (∀ b : BankId, 3 < bankNumber b → Config.hw.jumper b = Config.hw.bankModeInit b) ∧
  1 ≤ Config.hw.AW ∧ Config.hw.AW ≤ 16

/-- The machine of this hardware is the machine that takes the parameters as an argument, at this hardware's values (R8, U13, U14). -/
def Obligations.ThisHardwareIsAnInstanceOfTheParameters : Prop :=
  (∀ (i : Instr) (s : State), exec i s = execWith Config.hw i s) ∧ (∀ s : State, step s = stepWith Config.hw s) ∧
    State.reset = State.resetWith Config.hw

/-- For any parameters whose power-on modes lie in their banks' capabilities, every step keeps `outMode` and `SCLK` at 0 and every
bank's mode in its capability (R132 (i), R185 (v)). -/
def Obligations.BankInvariantHoldsForAnyParameters : Prop :=
  ∀ P : Params, (∀ b, P.bankModeInit b ∈ P.bankCap b) →
    ∀ s t : State, (∀ b, (s.bank b).outMode = false ∧ (s.bank b).sclk = false ∧ (s.bank b).mode ∈ P.bankCap b) →
      stepWith P s = .next t → ∀ b, (t.bank b).outMode = false ∧ (t.bank b).sclk = false ∧ (t.bank b).mode ∈ P.bankCap b

/-- No command and no step reads the jumpers: with any others in their place every command and every step does the same, so a mismatch
is undetectable and the block's own state follows its rules (R25, R223, R247, U3). -/
def Obligations.NoStepReadsTheJumpers : Prop :=
  ∀ (P : Params) (jumper : BankId → Mode) (s : State),
    (∀ i : Instr, execWith { P with jumper := jumper } i s = execWith P i s) ∧
      stepWith { P with jumper := jumper } s = stepWith P s

/-- What the physical outputs show: `Q` while the bank's write circuit is active, nothing while it is not (R34, R131); while the mode
of one of banks 4 to 6 differs from its jumper any value, and then no channel is presented to a sample either (R76, R223, R247, U3).
That R247 and U3 decide the last case, where R34 and R131 read alone would go by the jumper, is the model's reading (log 18). -/
def Obligations.OutputsFollowWriteCircuitUnlessJumperMismatch : Prop :=
  ∀ (P : Params) (s : State) (b : BankId) (c : ChanId),
    (bankNumber b ≤ 3 → s.channelOutput P b c =
      if (s.bank b).mode = .digitalOut then .driven ((s.att b).q.getLsbD c.val) else .notDriven) ∧
    (3 < bankNumber b → (s.bank b).mode = P.jumper b → s.channelOutput P b c =
      if P.jumper b = .digitalOut then .driven ((s.att b).q.getLsbD c.val) else .notDriven) ∧
    (3 < bankNumber b → (s.bank b).mode ≠ P.jumper b →
      s.channelOutput P b c = .anyValue ∧ s.presentsChannel P b c = false)
end

