-- ==== Sys2Proof/Laws/State.lean ====
section
/-! SUPPORT. The small lemmas of the state: one per field or accessor per update. -/

namespace Sys2Proof.Machine

/-! ### Two states with the same records and fields are equal -/

theorem State.eq_of_records {s t : State} (hbank : ∀ b, s.bank b = t.bank b) (hatt : ∀ b, s.att b = t.att b)
    (hpin : ∀ p, s.pin p = t.pin p) (hport : ∀ k, s.port k = t.port k) (hrep : s.analogReport = t.analogReport)
    (hp : s.addrP = t.addrP) (hs : s.addrS = t.addrS) (hready : s.cmdReady = t.cmdReady) (hdone : s.done = t.done)
    (hrsp : s.rsp = t.rsp) (hevt : s.evt = t.evt) (htrace : s.trace = t.trace) (hinput : s.input = t.input)
    (hdata : s.dataIn = t.dataIn) (hadc : s.adcIn = t.adcIn) (hfree : s.freeCount = t.freeCount) : s = t := by
  apply State.ext
  · apply Vector.ext; intro i hi; exact hbank ⟨i, hi⟩
  · apply Vector.ext; intro i hi; exact hatt ⟨i, hi⟩
  · apply Vector.ext; intro i hi; exact hpin ⟨i, hi⟩
  · apply Vector.ext; intro i hi; exact hport ⟨i, hi⟩
  all_goals assumption

/-! ### A record depends on its list only -/

theorem State.bank_congr {s t : State} (h : s.banks = t.banks) (b : BankId) : s.bank b = t.bank b := by simp only [State.bank, h]

theorem State.att_congr {s t : State} (h : s.attached = t.attached) (b : BankId) : s.att b = t.att b := by simp only [State.att, h]

theorem State.pin_congr {s t : State} (h : s.pins = t.pins) (p : PinId) : s.pin p = t.pin p := by simp only [State.pin, h]

theorem State.port_congr {s t : State} (h : s.ports = t.ports) (k : PortId) : s.port k = t.port k := by simp only [State.port, h]

/-! ### A record after an update of its kind -/

theorem State.bank_setBank (s : State) (b b' : BankId) (r : Bank) : (s.setBank b r).bank b' = if b' = b then r else s.bank b' := by
  simp only [State.bank, State.setBank, Vector.getElem_set]
  split <;> split <;> simp_all [Fin.ext_iff]

theorem State.att_setAtt (s : State) (b b' : BankId) (r : Attached) : (s.setAtt b r).att b' = if b' = b then r else s.att b' := by
  simp only [State.att, State.setAtt, Vector.getElem_set]
  split <;> split <;> simp_all [Fin.ext_iff]

theorem State.pin_setPin (s : State) (p p' : PinId) (r : Pin) : (s.setPin p r).pin p' = if p' = p then r else s.pin p' := by
  simp only [State.pin, State.setPin, Vector.getElem_set]
  split <;> split <;> simp_all [Fin.ext_iff]

theorem State.port_setPort (s : State) (k k' : PortId) (r : Port) : (s.setPort k r).port k' = if k' = k then r else s.port k' := by
  simp only [State.port, State.setPort, Vector.getElem_set]
  split <;> split <;> simp_all [Fin.ext_iff]

@[simp] theorem State.bank_setBank_self (s : State) (b : BankId) (r : Bank) : (s.setBank b r).bank b = r := by
  simp [State.bank_setBank]

@[simp] theorem State.att_setAtt_self (s : State) (b : BankId) (r : Attached) : (s.setAtt b r).att b = r := by
  simp [State.att_setAtt]

@[simp] theorem State.pin_setPin_self (s : State) (p : PinId) (r : Pin) : (s.setPin p r).pin p = r := by
  simp [State.pin_setPin]

@[simp] theorem State.port_setPort_self (s : State) (k : PortId) (r : Port) : (s.setPort k r).port k = r := by
  simp [State.port_setPort]

theorem State.pin_setCache (s : State) (p p' : PinId) (v : Frame) :
    (s.setCache p v).pin p' = if p' = p then { s.pin p with cachedValue := v } else s.pin p' := by
  simp [State.setCache, State.pin_setPin]

/-- Every bank of the bus commits, no other bank does (R131). -/
theorem State.att_commit (s : State) (P : Params) (x : Bus) (b : BankId) :
    (s.commit P x).att b = if busOf P b = x then { s.att b with q := (s.att b).sr } else s.att b := by
  simp [State.att, State.commit]

theorem State.port_resetPorts (s : State) (k : PortId) : s.resetPorts.port k = resetPort (s.bank (portBank k)).mode := by
  simp [State.port, State.resetPorts]

theorem State.pin_resetPins (s : State) (P : Params) (p : PinId) :
    (s.resetPins P).pin p =
      { currentMode := resetPinMode p (s.bank (bankOf P p)).mode
        cachedValue := initialCache (resetPinMode p (s.bank (bankOf P p)).mode) } := by
  simp [State.pin, State.resetPins]

theorem State.port_resetAlgorithm (s : State) (P : Params) (k : PortId) :
    (s.resetAlgorithm P).port k = resetPort (s.bank (portBank k)).mode :=
  (State.port_congr (by simp only [State.resetAlgorithm, State.resetPins]) k).trans (State.port_resetPorts s k)

theorem State.pin_resetAlgorithm (s : State) (P : Params) (p : PinId) :
    (s.resetAlgorithm P).pin p =
      { currentMode := resetPinMode p (s.bank (bankOf P p)).mode
        cachedValue := initialCache (resetPinMode p (s.bank (bankOf P p)).mode) } := by
  rw [State.resetAlgorithm, State.pin_resetPins, State.bank_congr (t := s) (by simp only [State.resetPorts])]

@[simp] theorem State.analogReport_resetAlgorithm (s : State) (P : Params) : (s.resetAlgorithm P).analogReport = 0 := by
  simp only [State.resetAlgorithm, State.resetPins, State.resetPorts]

@[simp] theorem State.rsp_respond (s : State) (err : Bool) (value : BitVec 32) :
    (s.respond err value).rsp = s.rsp ++ [rspWord err value] := rfl

@[simp] theorem State.evt_emitDigital (s : State) (k : PortId) (byte : Byte) :
    (s.emitDigital k byte).evt = s.evt ++ [evtWord false (BitVec.ofNat 8 k.val) (byte.setWidth 16)] := rfl

@[simp] theorem State.evt_emitAnalog (s : State) (p : PinId) (v : Frame) :
    (s.emitAnalog p v).evt = s.evt ++ [evtWord true (BitVec.ofNat 8 p.val) v] := rfl

/-! ### The address registers -/

theorem State.addr_putAddr (s : State) (x y : Bus) (a : BitVec 4) : (s.putAddr x a).addr y = if y = x then a else s.addr y := by
  cases x <;> cases y <;> rfl

@[simp] theorem State.addr_putAddr_self (s : State) (x : Bus) (a : BitVec 4) : (s.putAddr x a).addr x = a := by
  cases x <;> rfl

@[simp] theorem State.banks_putAddr (s : State) (x : Bus) (a : BitVec 4) : (s.putAddr x a).banks = s.banks := by cases x <;> rfl
@[simp] theorem State.attached_putAddr (s : State) (x : Bus) (a : BitVec 4) : (s.putAddr x a).attached = s.attached := by cases x <;> rfl
@[simp] theorem State.pins_putAddr (s : State) (x : Bus) (a : BitVec 4) : (s.putAddr x a).pins = s.pins := by cases x <;> rfl
@[simp] theorem State.ports_putAddr (s : State) (x : Bus) (a : BitVec 4) : (s.putAddr x a).ports = s.ports := by cases x <;> rfl
@[simp] theorem State.analogReport_putAddr (s : State) (x : Bus) (a : BitVec 4) : (s.putAddr x a).analogReport = s.analogReport := by cases x <;> rfl
@[simp] theorem State.cmdReady_putAddr (s : State) (x : Bus) (a : BitVec 4) : (s.putAddr x a).cmdReady = s.cmdReady := by cases x <;> rfl
@[simp] theorem State.done_putAddr (s : State) (x : Bus) (a : BitVec 4) : (s.putAddr x a).done = s.done := by cases x <;> rfl
@[simp] theorem State.rsp_putAddr (s : State) (x : Bus) (a : BitVec 4) : (s.putAddr x a).rsp = s.rsp := by cases x <;> rfl
@[simp] theorem State.evt_putAddr (s : State) (x : Bus) (a : BitVec 4) : (s.putAddr x a).evt = s.evt := by cases x <;> rfl
@[simp] theorem State.trace_putAddr (s : State) (x : Bus) (a : BitVec 4) : (s.putAddr x a).trace = s.trace := by cases x <;> rfl
@[simp] theorem State.input_putAddr (s : State) (x : Bus) (a : BitVec 4) : (s.putAddr x a).input = s.input := by cases x <;> rfl
@[simp] theorem State.dataIn_putAddr (s : State) (x : Bus) (a : BitVec 4) : (s.putAddr x a).dataIn = s.dataIn := by cases x <;> rfl
@[simp] theorem State.adcIn_putAddr (s : State) (x : Bus) (a : BitVec 4) : (s.putAddr x a).adcIn = s.adcIn := by cases x <;> rfl
@[simp] theorem State.freeCount_putAddr (s : State) (x : Bus) (a : BitVec 4) : (s.putAddr x a).freeCount = s.freeCount := by cases x <;> rfl
@[simp] theorem State.bank_putAddr (s : State) (x : Bus) (a : BitVec 4) (b' : BankId) : (s.putAddr x a).bank b' = s.bank b' :=
  State.bank_congr (by cases x <;> rfl) b'
@[simp] theorem State.att_putAddr (s : State) (x : Bus) (a : BitVec 4) (b' : BankId) : (s.putAddr x a).att b' = s.att b' :=
  State.att_congr (by cases x <;> rfl) b'
@[simp] theorem State.pin_putAddr (s : State) (x : Bus) (a : BitVec 4) (p' : PinId) : (s.putAddr x a).pin p' = s.pin p' :=
  State.pin_congr (by cases x <;> rfl) p'
@[simp] theorem State.port_putAddr (s : State) (x : Bus) (a : BitVec 4) (k' : PortId) : (s.putAddr x a).port k' = s.port k' :=
  State.port_congr (by cases x <;> rfl) k'

/-! ### `setBank` changes nothing else -/

@[simp] theorem State.attached_setBank (s : State) (b : BankId) (r : Bank) : (s.setBank b r).attached = s.attached := rfl
@[simp] theorem State.pins_setBank (s : State) (b : BankId) (r : Bank) : (s.setBank b r).pins = s.pins := rfl
@[simp] theorem State.ports_setBank (s : State) (b : BankId) (r : Bank) : (s.setBank b r).ports = s.ports := rfl
@[simp] theorem State.analogReport_setBank (s : State) (b : BankId) (r : Bank) : (s.setBank b r).analogReport = s.analogReport := rfl
@[simp] theorem State.addrP_setBank (s : State) (b : BankId) (r : Bank) : (s.setBank b r).addrP = s.addrP := rfl
@[simp] theorem State.addrS_setBank (s : State) (b : BankId) (r : Bank) : (s.setBank b r).addrS = s.addrS := rfl
@[simp] theorem State.cmdReady_setBank (s : State) (b : BankId) (r : Bank) : (s.setBank b r).cmdReady = s.cmdReady := rfl
@[simp] theorem State.done_setBank (s : State) (b : BankId) (r : Bank) : (s.setBank b r).done = s.done := rfl
@[simp] theorem State.rsp_setBank (s : State) (b : BankId) (r : Bank) : (s.setBank b r).rsp = s.rsp := rfl
@[simp] theorem State.evt_setBank (s : State) (b : BankId) (r : Bank) : (s.setBank b r).evt = s.evt := rfl
@[simp] theorem State.trace_setBank (s : State) (b : BankId) (r : Bank) : (s.setBank b r).trace = s.trace := rfl
@[simp] theorem State.input_setBank (s : State) (b : BankId) (r : Bank) : (s.setBank b r).input = s.input := rfl
@[simp] theorem State.dataIn_setBank (s : State) (b : BankId) (r : Bank) : (s.setBank b r).dataIn = s.dataIn := rfl
@[simp] theorem State.adcIn_setBank (s : State) (b : BankId) (r : Bank) : (s.setBank b r).adcIn = s.adcIn := rfl
@[simp] theorem State.freeCount_setBank (s : State) (b : BankId) (r : Bank) : (s.setBank b r).freeCount = s.freeCount := rfl
@[simp] theorem State.att_setBank (s : State) (b : BankId) (r : Bank) (b' : BankId) : (s.setBank b r).att b' = s.att b' :=
  State.att_congr rfl b'
@[simp] theorem State.pin_setBank (s : State) (b : BankId) (r : Bank) (p' : PinId) : (s.setBank b r).pin p' = s.pin p' :=
  State.pin_congr rfl p'
@[simp] theorem State.port_setBank (s : State) (b : BankId) (r : Bank) (k' : PortId) : (s.setBank b r).port k' = s.port k' :=
  State.port_congr rfl k'
@[simp] theorem State.addr_setBank (s : State) (b : BankId) (r : Bank) (y : Bus) : (s.setBank b r).addr y = s.addr y := rfl

/-! ### `setAtt` changes nothing else -/

@[simp] theorem State.banks_setAtt (s : State) (b : BankId) (r : Attached) : (s.setAtt b r).banks = s.banks := rfl
@[simp] theorem State.pins_setAtt (s : State) (b : BankId) (r : Attached) : (s.setAtt b r).pins = s.pins := rfl
@[simp] theorem State.ports_setAtt (s : State) (b : BankId) (r : Attached) : (s.setAtt b r).ports = s.ports := rfl
@[simp] theorem State.analogReport_setAtt (s : State) (b : BankId) (r : Attached) : (s.setAtt b r).analogReport = s.analogReport := rfl
@[simp] theorem State.addrP_setAtt (s : State) (b : BankId) (r : Attached) : (s.setAtt b r).addrP = s.addrP := rfl
@[simp] theorem State.addrS_setAtt (s : State) (b : BankId) (r : Attached) : (s.setAtt b r).addrS = s.addrS := rfl
@[simp] theorem State.cmdReady_setAtt (s : State) (b : BankId) (r : Attached) : (s.setAtt b r).cmdReady = s.cmdReady := rfl
@[simp] theorem State.done_setAtt (s : State) (b : BankId) (r : Attached) : (s.setAtt b r).done = s.done := rfl
@[simp] theorem State.rsp_setAtt (s : State) (b : BankId) (r : Attached) : (s.setAtt b r).rsp = s.rsp := rfl
@[simp] theorem State.evt_setAtt (s : State) (b : BankId) (r : Attached) : (s.setAtt b r).evt = s.evt := rfl
@[simp] theorem State.trace_setAtt (s : State) (b : BankId) (r : Attached) : (s.setAtt b r).trace = s.trace := rfl
@[simp] theorem State.input_setAtt (s : State) (b : BankId) (r : Attached) : (s.setAtt b r).input = s.input := rfl
@[simp] theorem State.dataIn_setAtt (s : State) (b : BankId) (r : Attached) : (s.setAtt b r).dataIn = s.dataIn := rfl
@[simp] theorem State.adcIn_setAtt (s : State) (b : BankId) (r : Attached) : (s.setAtt b r).adcIn = s.adcIn := rfl
@[simp] theorem State.freeCount_setAtt (s : State) (b : BankId) (r : Attached) : (s.setAtt b r).freeCount = s.freeCount := rfl
@[simp] theorem State.bank_setAtt (s : State) (b : BankId) (r : Attached) (b' : BankId) : (s.setAtt b r).bank b' = s.bank b' :=
  State.bank_congr rfl b'
@[simp] theorem State.pin_setAtt (s : State) (b : BankId) (r : Attached) (p' : PinId) : (s.setAtt b r).pin p' = s.pin p' :=
  State.pin_congr rfl p'
@[simp] theorem State.port_setAtt (s : State) (b : BankId) (r : Attached) (k' : PortId) : (s.setAtt b r).port k' = s.port k' :=
  State.port_congr rfl k'
@[simp] theorem State.addr_setAtt (s : State) (b : BankId) (r : Attached) (y : Bus) : (s.setAtt b r).addr y = s.addr y := rfl

/-! ### `setPin` changes nothing else -/

@[simp] theorem State.banks_setPin (s : State) (p : PinId) (r : Pin) : (s.setPin p r).banks = s.banks := rfl
@[simp] theorem State.attached_setPin (s : State) (p : PinId) (r : Pin) : (s.setPin p r).attached = s.attached := rfl
@[simp] theorem State.ports_setPin (s : State) (p : PinId) (r : Pin) : (s.setPin p r).ports = s.ports := rfl
@[simp] theorem State.analogReport_setPin (s : State) (p : PinId) (r : Pin) : (s.setPin p r).analogReport = s.analogReport := rfl
@[simp] theorem State.addrP_setPin (s : State) (p : PinId) (r : Pin) : (s.setPin p r).addrP = s.addrP := rfl
@[simp] theorem State.addrS_setPin (s : State) (p : PinId) (r : Pin) : (s.setPin p r).addrS = s.addrS := rfl
@[simp] theorem State.cmdReady_setPin (s : State) (p : PinId) (r : Pin) : (s.setPin p r).cmdReady = s.cmdReady := rfl
@[simp] theorem State.done_setPin (s : State) (p : PinId) (r : Pin) : (s.setPin p r).done = s.done := rfl
@[simp] theorem State.rsp_setPin (s : State) (p : PinId) (r : Pin) : (s.setPin p r).rsp = s.rsp := rfl
@[simp] theorem State.evt_setPin (s : State) (p : PinId) (r : Pin) : (s.setPin p r).evt = s.evt := rfl
@[simp] theorem State.trace_setPin (s : State) (p : PinId) (r : Pin) : (s.setPin p r).trace = s.trace := rfl
@[simp] theorem State.input_setPin (s : State) (p : PinId) (r : Pin) : (s.setPin p r).input = s.input := rfl
@[simp] theorem State.dataIn_setPin (s : State) (p : PinId) (r : Pin) : (s.setPin p r).dataIn = s.dataIn := rfl
@[simp] theorem State.adcIn_setPin (s : State) (p : PinId) (r : Pin) : (s.setPin p r).adcIn = s.adcIn := rfl
@[simp] theorem State.freeCount_setPin (s : State) (p : PinId) (r : Pin) : (s.setPin p r).freeCount = s.freeCount := rfl
@[simp] theorem State.bank_setPin (s : State) (p : PinId) (r : Pin) (b' : BankId) : (s.setPin p r).bank b' = s.bank b' :=
  State.bank_congr rfl b'
@[simp] theorem State.att_setPin (s : State) (p : PinId) (r : Pin) (b' : BankId) : (s.setPin p r).att b' = s.att b' :=
  State.att_congr rfl b'
@[simp] theorem State.port_setPin (s : State) (p : PinId) (r : Pin) (k' : PortId) : (s.setPin p r).port k' = s.port k' :=
  State.port_congr rfl k'
@[simp] theorem State.addr_setPin (s : State) (p : PinId) (r : Pin) (y : Bus) : (s.setPin p r).addr y = s.addr y := rfl

/-! ### `setCache` changes nothing else -/

@[simp] theorem State.banks_setCache (s : State) (p : PinId) (v : Frame) : (s.setCache p v).banks = s.banks := rfl
@[simp] theorem State.attached_setCache (s : State) (p : PinId) (v : Frame) : (s.setCache p v).attached = s.attached := rfl
@[simp] theorem State.ports_setCache (s : State) (p : PinId) (v : Frame) : (s.setCache p v).ports = s.ports := rfl
@[simp] theorem State.analogReport_setCache (s : State) (p : PinId) (v : Frame) : (s.setCache p v).analogReport = s.analogReport := rfl
@[simp] theorem State.addrP_setCache (s : State) (p : PinId) (v : Frame) : (s.setCache p v).addrP = s.addrP := rfl
@[simp] theorem State.addrS_setCache (s : State) (p : PinId) (v : Frame) : (s.setCache p v).addrS = s.addrS := rfl
@[simp] theorem State.cmdReady_setCache (s : State) (p : PinId) (v : Frame) : (s.setCache p v).cmdReady = s.cmdReady := rfl
@[simp] theorem State.done_setCache (s : State) (p : PinId) (v : Frame) : (s.setCache p v).done = s.done := rfl
@[simp] theorem State.rsp_setCache (s : State) (p : PinId) (v : Frame) : (s.setCache p v).rsp = s.rsp := rfl
@[simp] theorem State.evt_setCache (s : State) (p : PinId) (v : Frame) : (s.setCache p v).evt = s.evt := rfl
@[simp] theorem State.trace_setCache (s : State) (p : PinId) (v : Frame) : (s.setCache p v).trace = s.trace := rfl
@[simp] theorem State.input_setCache (s : State) (p : PinId) (v : Frame) : (s.setCache p v).input = s.input := rfl
@[simp] theorem State.dataIn_setCache (s : State) (p : PinId) (v : Frame) : (s.setCache p v).dataIn = s.dataIn := rfl
@[simp] theorem State.adcIn_setCache (s : State) (p : PinId) (v : Frame) : (s.setCache p v).adcIn = s.adcIn := rfl
@[simp] theorem State.freeCount_setCache (s : State) (p : PinId) (v : Frame) : (s.setCache p v).freeCount = s.freeCount := rfl
@[simp] theorem State.bank_setCache (s : State) (p : PinId) (v : Frame) (b' : BankId) : (s.setCache p v).bank b' = s.bank b' :=
  State.bank_congr rfl b'
@[simp] theorem State.att_setCache (s : State) (p : PinId) (v : Frame) (b' : BankId) : (s.setCache p v).att b' = s.att b' :=
  State.att_congr rfl b'
@[simp] theorem State.port_setCache (s : State) (p : PinId) (v : Frame) (k' : PortId) : (s.setCache p v).port k' = s.port k' :=
  State.port_congr rfl k'
@[simp] theorem State.addr_setCache (s : State) (p : PinId) (v : Frame) (y : Bus) : (s.setCache p v).addr y = s.addr y := rfl

/-! ### `setPort` changes nothing else -/

@[simp] theorem State.banks_setPort (s : State) (k : PortId) (r : Port) : (s.setPort k r).banks = s.banks := rfl
@[simp] theorem State.attached_setPort (s : State) (k : PortId) (r : Port) : (s.setPort k r).attached = s.attached := rfl
@[simp] theorem State.pins_setPort (s : State) (k : PortId) (r : Port) : (s.setPort k r).pins = s.pins := rfl
@[simp] theorem State.analogReport_setPort (s : State) (k : PortId) (r : Port) : (s.setPort k r).analogReport = s.analogReport := rfl
@[simp] theorem State.addrP_setPort (s : State) (k : PortId) (r : Port) : (s.setPort k r).addrP = s.addrP := rfl
@[simp] theorem State.addrS_setPort (s : State) (k : PortId) (r : Port) : (s.setPort k r).addrS = s.addrS := rfl
@[simp] theorem State.cmdReady_setPort (s : State) (k : PortId) (r : Port) : (s.setPort k r).cmdReady = s.cmdReady := rfl
@[simp] theorem State.done_setPort (s : State) (k : PortId) (r : Port) : (s.setPort k r).done = s.done := rfl
@[simp] theorem State.rsp_setPort (s : State) (k : PortId) (r : Port) : (s.setPort k r).rsp = s.rsp := rfl
@[simp] theorem State.evt_setPort (s : State) (k : PortId) (r : Port) : (s.setPort k r).evt = s.evt := rfl
@[simp] theorem State.trace_setPort (s : State) (k : PortId) (r : Port) : (s.setPort k r).trace = s.trace := rfl
@[simp] theorem State.input_setPort (s : State) (k : PortId) (r : Port) : (s.setPort k r).input = s.input := rfl
@[simp] theorem State.dataIn_setPort (s : State) (k : PortId) (r : Port) : (s.setPort k r).dataIn = s.dataIn := rfl
@[simp] theorem State.adcIn_setPort (s : State) (k : PortId) (r : Port) : (s.setPort k r).adcIn = s.adcIn := rfl
@[simp] theorem State.freeCount_setPort (s : State) (k : PortId) (r : Port) : (s.setPort k r).freeCount = s.freeCount := rfl
@[simp] theorem State.bank_setPort (s : State) (k : PortId) (r : Port) (b' : BankId) : (s.setPort k r).bank b' = s.bank b' :=
  State.bank_congr rfl b'
@[simp] theorem State.att_setPort (s : State) (k : PortId) (r : Port) (b' : BankId) : (s.setPort k r).att b' = s.att b' :=
  State.att_congr rfl b'
@[simp] theorem State.pin_setPort (s : State) (k : PortId) (r : Port) (p' : PinId) : (s.setPort k r).pin p' = s.pin p' :=
  State.pin_congr rfl p'
@[simp] theorem State.addr_setPort (s : State) (k : PortId) (r : Port) (y : Bus) : (s.setPort k r).addr y = s.addr y := rfl

/-! ### `commit` changes nothing else -/

@[simp] theorem State.banks_commit (s : State) (P : Params) (x : Bus) : (s.commit P x).banks = s.banks := rfl
@[simp] theorem State.pins_commit (s : State) (P : Params) (x : Bus) : (s.commit P x).pins = s.pins := rfl
@[simp] theorem State.ports_commit (s : State) (P : Params) (x : Bus) : (s.commit P x).ports = s.ports := rfl
@[simp] theorem State.analogReport_commit (s : State) (P : Params) (x : Bus) : (s.commit P x).analogReport = s.analogReport := rfl
@[simp] theorem State.addrP_commit (s : State) (P : Params) (x : Bus) : (s.commit P x).addrP = s.addrP := rfl
@[simp] theorem State.addrS_commit (s : State) (P : Params) (x : Bus) : (s.commit P x).addrS = s.addrS := rfl
@[simp] theorem State.cmdReady_commit (s : State) (P : Params) (x : Bus) : (s.commit P x).cmdReady = s.cmdReady := rfl
@[simp] theorem State.done_commit (s : State) (P : Params) (x : Bus) : (s.commit P x).done = s.done := rfl
@[simp] theorem State.rsp_commit (s : State) (P : Params) (x : Bus) : (s.commit P x).rsp = s.rsp := rfl
@[simp] theorem State.evt_commit (s : State) (P : Params) (x : Bus) : (s.commit P x).evt = s.evt := rfl
@[simp] theorem State.trace_commit (s : State) (P : Params) (x : Bus) : (s.commit P x).trace = s.trace := rfl
@[simp] theorem State.input_commit (s : State) (P : Params) (x : Bus) : (s.commit P x).input = s.input := rfl
@[simp] theorem State.dataIn_commit (s : State) (P : Params) (x : Bus) : (s.commit P x).dataIn = s.dataIn := rfl
@[simp] theorem State.adcIn_commit (s : State) (P : Params) (x : Bus) : (s.commit P x).adcIn = s.adcIn := rfl
@[simp] theorem State.freeCount_commit (s : State) (P : Params) (x : Bus) : (s.commit P x).freeCount = s.freeCount := rfl
@[simp] theorem State.bank_commit (s : State) (P : Params) (x : Bus) (b' : BankId) : (s.commit P x).bank b' = s.bank b' :=
  State.bank_congr rfl b'
@[simp] theorem State.pin_commit (s : State) (P : Params) (x : Bus) (p' : PinId) : (s.commit P x).pin p' = s.pin p' :=
  State.pin_congr rfl p'
@[simp] theorem State.port_commit (s : State) (P : Params) (x : Bus) (k' : PortId) : (s.commit P x).port k' = s.port k' :=
  State.port_congr rfl k'
@[simp] theorem State.addr_commit (s : State) (P : Params) (x : Bus) (y : Bus) : (s.commit P x).addr y = s.addr y := rfl

/-! ### `respond` changes nothing else -/

@[simp] theorem State.banks_respond (s : State) (err : Bool) (value : BitVec 32) : (s.respond err value).banks = s.banks := rfl
@[simp] theorem State.attached_respond (s : State) (err : Bool) (value : BitVec 32) : (s.respond err value).attached = s.attached := rfl
@[simp] theorem State.pins_respond (s : State) (err : Bool) (value : BitVec 32) : (s.respond err value).pins = s.pins := rfl
@[simp] theorem State.ports_respond (s : State) (err : Bool) (value : BitVec 32) : (s.respond err value).ports = s.ports := rfl
@[simp] theorem State.analogReport_respond (s : State) (err : Bool) (value : BitVec 32) : (s.respond err value).analogReport = s.analogReport := rfl
@[simp] theorem State.addrP_respond (s : State) (err : Bool) (value : BitVec 32) : (s.respond err value).addrP = s.addrP := rfl
@[simp] theorem State.addrS_respond (s : State) (err : Bool) (value : BitVec 32) : (s.respond err value).addrS = s.addrS := rfl
@[simp] theorem State.cmdReady_respond (s : State) (err : Bool) (value : BitVec 32) : (s.respond err value).cmdReady = s.cmdReady := rfl
@[simp] theorem State.done_respond (s : State) (err : Bool) (value : BitVec 32) : (s.respond err value).done = s.done := rfl
@[simp] theorem State.evt_respond (s : State) (err : Bool) (value : BitVec 32) : (s.respond err value).evt = s.evt := rfl
@[simp] theorem State.trace_respond (s : State) (err : Bool) (value : BitVec 32) : (s.respond err value).trace = s.trace := rfl
@[simp] theorem State.input_respond (s : State) (err : Bool) (value : BitVec 32) : (s.respond err value).input = s.input := rfl
@[simp] theorem State.dataIn_respond (s : State) (err : Bool) (value : BitVec 32) : (s.respond err value).dataIn = s.dataIn := rfl
@[simp] theorem State.adcIn_respond (s : State) (err : Bool) (value : BitVec 32) : (s.respond err value).adcIn = s.adcIn := rfl
@[simp] theorem State.freeCount_respond (s : State) (err : Bool) (value : BitVec 32) : (s.respond err value).freeCount = s.freeCount := rfl
@[simp] theorem State.bank_respond (s : State) (err : Bool) (value : BitVec 32) (b' : BankId) : (s.respond err value).bank b' = s.bank b' :=
  State.bank_congr rfl b'
@[simp] theorem State.att_respond (s : State) (err : Bool) (value : BitVec 32) (b' : BankId) : (s.respond err value).att b' = s.att b' :=
  State.att_congr rfl b'
@[simp] theorem State.pin_respond (s : State) (err : Bool) (value : BitVec 32) (p' : PinId) : (s.respond err value).pin p' = s.pin p' :=
  State.pin_congr rfl p'
@[simp] theorem State.port_respond (s : State) (err : Bool) (value : BitVec 32) (k' : PortId) : (s.respond err value).port k' = s.port k' :=
  State.port_congr rfl k'
@[simp] theorem State.addr_respond (s : State) (err : Bool) (value : BitVec 32) (y : Bus) : (s.respond err value).addr y = s.addr y := rfl

/-! ### `emitDigital` changes nothing else -/

@[simp] theorem State.banks_emitDigital (s : State) (k : PortId) (byte : Byte) : (s.emitDigital k byte).banks = s.banks := rfl
@[simp] theorem State.attached_emitDigital (s : State) (k : PortId) (byte : Byte) : (s.emitDigital k byte).attached = s.attached := rfl
@[simp] theorem State.pins_emitDigital (s : State) (k : PortId) (byte : Byte) : (s.emitDigital k byte).pins = s.pins := rfl
@[simp] theorem State.ports_emitDigital (s : State) (k : PortId) (byte : Byte) : (s.emitDigital k byte).ports = s.ports := rfl
@[simp] theorem State.analogReport_emitDigital (s : State) (k : PortId) (byte : Byte) : (s.emitDigital k byte).analogReport = s.analogReport := rfl
@[simp] theorem State.addrP_emitDigital (s : State) (k : PortId) (byte : Byte) : (s.emitDigital k byte).addrP = s.addrP := rfl
@[simp] theorem State.addrS_emitDigital (s : State) (k : PortId) (byte : Byte) : (s.emitDigital k byte).addrS = s.addrS := rfl
@[simp] theorem State.cmdReady_emitDigital (s : State) (k : PortId) (byte : Byte) : (s.emitDigital k byte).cmdReady = s.cmdReady := rfl
@[simp] theorem State.done_emitDigital (s : State) (k : PortId) (byte : Byte) : (s.emitDigital k byte).done = s.done := rfl
@[simp] theorem State.rsp_emitDigital (s : State) (k : PortId) (byte : Byte) : (s.emitDigital k byte).rsp = s.rsp := rfl
@[simp] theorem State.trace_emitDigital (s : State) (k : PortId) (byte : Byte) : (s.emitDigital k byte).trace = s.trace := rfl
@[simp] theorem State.input_emitDigital (s : State) (k : PortId) (byte : Byte) : (s.emitDigital k byte).input = s.input := rfl
@[simp] theorem State.dataIn_emitDigital (s : State) (k : PortId) (byte : Byte) : (s.emitDigital k byte).dataIn = s.dataIn := rfl
@[simp] theorem State.adcIn_emitDigital (s : State) (k : PortId) (byte : Byte) : (s.emitDigital k byte).adcIn = s.adcIn := rfl
@[simp] theorem State.freeCount_emitDigital (s : State) (k : PortId) (byte : Byte) : (s.emitDigital k byte).freeCount = s.freeCount := rfl
@[simp] theorem State.bank_emitDigital (s : State) (k : PortId) (byte : Byte) (b' : BankId) : (s.emitDigital k byte).bank b' = s.bank b' :=
  State.bank_congr rfl b'
@[simp] theorem State.att_emitDigital (s : State) (k : PortId) (byte : Byte) (b' : BankId) : (s.emitDigital k byte).att b' = s.att b' :=
  State.att_congr rfl b'
@[simp] theorem State.pin_emitDigital (s : State) (k : PortId) (byte : Byte) (p' : PinId) : (s.emitDigital k byte).pin p' = s.pin p' :=
  State.pin_congr rfl p'
@[simp] theorem State.port_emitDigital (s : State) (k : PortId) (byte : Byte) (k' : PortId) : (s.emitDigital k byte).port k' = s.port k' :=
  State.port_congr rfl k'
@[simp] theorem State.addr_emitDigital (s : State) (k : PortId) (byte : Byte) (y : Bus) : (s.emitDigital k byte).addr y = s.addr y := rfl

/-! ### `emitAnalog` changes nothing else -/

@[simp] theorem State.banks_emitAnalog (s : State) (p : PinId) (v : Frame) : (s.emitAnalog p v).banks = s.banks := rfl
@[simp] theorem State.attached_emitAnalog (s : State) (p : PinId) (v : Frame) : (s.emitAnalog p v).attached = s.attached := rfl
@[simp] theorem State.pins_emitAnalog (s : State) (p : PinId) (v : Frame) : (s.emitAnalog p v).pins = s.pins := rfl
@[simp] theorem State.ports_emitAnalog (s : State) (p : PinId) (v : Frame) : (s.emitAnalog p v).ports = s.ports := rfl
@[simp] theorem State.analogReport_emitAnalog (s : State) (p : PinId) (v : Frame) : (s.emitAnalog p v).analogReport = s.analogReport := rfl
@[simp] theorem State.addrP_emitAnalog (s : State) (p : PinId) (v : Frame) : (s.emitAnalog p v).addrP = s.addrP := rfl
@[simp] theorem State.addrS_emitAnalog (s : State) (p : PinId) (v : Frame) : (s.emitAnalog p v).addrS = s.addrS := rfl
@[simp] theorem State.cmdReady_emitAnalog (s : State) (p : PinId) (v : Frame) : (s.emitAnalog p v).cmdReady = s.cmdReady := rfl
@[simp] theorem State.done_emitAnalog (s : State) (p : PinId) (v : Frame) : (s.emitAnalog p v).done = s.done := rfl
@[simp] theorem State.rsp_emitAnalog (s : State) (p : PinId) (v : Frame) : (s.emitAnalog p v).rsp = s.rsp := rfl
@[simp] theorem State.trace_emitAnalog (s : State) (p : PinId) (v : Frame) : (s.emitAnalog p v).trace = s.trace := rfl
@[simp] theorem State.input_emitAnalog (s : State) (p : PinId) (v : Frame) : (s.emitAnalog p v).input = s.input := rfl
@[simp] theorem State.dataIn_emitAnalog (s : State) (p : PinId) (v : Frame) : (s.emitAnalog p v).dataIn = s.dataIn := rfl
@[simp] theorem State.adcIn_emitAnalog (s : State) (p : PinId) (v : Frame) : (s.emitAnalog p v).adcIn = s.adcIn := rfl
@[simp] theorem State.freeCount_emitAnalog (s : State) (p : PinId) (v : Frame) : (s.emitAnalog p v).freeCount = s.freeCount := rfl
@[simp] theorem State.bank_emitAnalog (s : State) (p : PinId) (v : Frame) (b' : BankId) : (s.emitAnalog p v).bank b' = s.bank b' :=
  State.bank_congr rfl b'
@[simp] theorem State.att_emitAnalog (s : State) (p : PinId) (v : Frame) (b' : BankId) : (s.emitAnalog p v).att b' = s.att b' :=
  State.att_congr rfl b'
@[simp] theorem State.pin_emitAnalog (s : State) (p : PinId) (v : Frame) (p' : PinId) : (s.emitAnalog p v).pin p' = s.pin p' :=
  State.pin_congr rfl p'
@[simp] theorem State.port_emitAnalog (s : State) (p : PinId) (v : Frame) (k' : PortId) : (s.emitAnalog p v).port k' = s.port k' :=
  State.port_congr rfl k'
@[simp] theorem State.addr_emitAnalog (s : State) (p : PinId) (v : Frame) (y : Bus) : (s.emitAnalog p v).addr y = s.addr y := rfl

/-! ### `resetPorts` changes nothing else -/

@[simp] theorem State.banks_resetPorts (s : State) : s.resetPorts.banks = s.banks := by
  simp only [State.resetPorts]
@[simp] theorem State.attached_resetPorts (s : State) : s.resetPorts.attached = s.attached := by
  simp only [State.resetPorts]
@[simp] theorem State.pins_resetPorts (s : State) : s.resetPorts.pins = s.pins := by
  simp only [State.resetPorts]
@[simp] theorem State.addrP_resetPorts (s : State) : s.resetPorts.addrP = s.addrP := by
  simp only [State.resetPorts]
@[simp] theorem State.addrS_resetPorts (s : State) : s.resetPorts.addrS = s.addrS := by
  simp only [State.resetPorts]
@[simp] theorem State.cmdReady_resetPorts (s : State) : s.resetPorts.cmdReady = s.cmdReady := by
  simp only [State.resetPorts]
@[simp] theorem State.done_resetPorts (s : State) : s.resetPorts.done = s.done := by
  simp only [State.resetPorts]
@[simp] theorem State.rsp_resetPorts (s : State) : s.resetPorts.rsp = s.rsp := by
  simp only [State.resetPorts]
@[simp] theorem State.evt_resetPorts (s : State) : s.resetPorts.evt = s.evt := by
  simp only [State.resetPorts]
@[simp] theorem State.trace_resetPorts (s : State) : s.resetPorts.trace = s.trace := by
  simp only [State.resetPorts]
@[simp] theorem State.input_resetPorts (s : State) : s.resetPorts.input = s.input := by
  simp only [State.resetPorts]
@[simp] theorem State.dataIn_resetPorts (s : State) : s.resetPorts.dataIn = s.dataIn := by
  simp only [State.resetPorts]
@[simp] theorem State.adcIn_resetPorts (s : State) : s.resetPorts.adcIn = s.adcIn := by
  simp only [State.resetPorts]
@[simp] theorem State.freeCount_resetPorts (s : State) : s.resetPorts.freeCount = s.freeCount := by
  simp only [State.resetPorts]
@[simp] theorem State.bank_resetPorts (s : State) (b' : BankId) : s.resetPorts.bank b' = s.bank b' :=
  State.bank_congr (by simp only [State.resetPorts]) b'
@[simp] theorem State.att_resetPorts (s : State) (b' : BankId) : s.resetPorts.att b' = s.att b' :=
  State.att_congr (by simp only [State.resetPorts]) b'
@[simp] theorem State.pin_resetPorts (s : State) (p' : PinId) : s.resetPorts.pin p' = s.pin p' :=
  State.pin_congr (by simp only [State.resetPorts]) p'
@[simp] theorem State.addr_resetPorts (s : State) (y : Bus) : s.resetPorts.addr y = s.addr y := by
  simp only [State.addr, State.resetPorts]

/-! ### `resetPins` changes nothing else -/

@[simp] theorem State.banks_resetPins (s : State) (P : Params) : (s.resetPins P).banks = s.banks := by
  simp only [State.resetPins]
@[simp] theorem State.attached_resetPins (s : State) (P : Params) : (s.resetPins P).attached = s.attached := by
  simp only [State.resetPins]
@[simp] theorem State.ports_resetPins (s : State) (P : Params) : (s.resetPins P).ports = s.ports := by
  simp only [State.resetPins]
@[simp] theorem State.analogReport_resetPins (s : State) (P : Params) : (s.resetPins P).analogReport = s.analogReport := by
  simp only [State.resetPins]
@[simp] theorem State.addrP_resetPins (s : State) (P : Params) : (s.resetPins P).addrP = s.addrP := by
  simp only [State.resetPins]
@[simp] theorem State.addrS_resetPins (s : State) (P : Params) : (s.resetPins P).addrS = s.addrS := by
  simp only [State.resetPins]
@[simp] theorem State.cmdReady_resetPins (s : State) (P : Params) : (s.resetPins P).cmdReady = s.cmdReady := by
  simp only [State.resetPins]
@[simp] theorem State.done_resetPins (s : State) (P : Params) : (s.resetPins P).done = s.done := by
  simp only [State.resetPins]
@[simp] theorem State.rsp_resetPins (s : State) (P : Params) : (s.resetPins P).rsp = s.rsp := by
  simp only [State.resetPins]
@[simp] theorem State.evt_resetPins (s : State) (P : Params) : (s.resetPins P).evt = s.evt := by
  simp only [State.resetPins]
@[simp] theorem State.trace_resetPins (s : State) (P : Params) : (s.resetPins P).trace = s.trace := by
  simp only [State.resetPins]
@[simp] theorem State.input_resetPins (s : State) (P : Params) : (s.resetPins P).input = s.input := by
  simp only [State.resetPins]
@[simp] theorem State.dataIn_resetPins (s : State) (P : Params) : (s.resetPins P).dataIn = s.dataIn := by
  simp only [State.resetPins]
@[simp] theorem State.adcIn_resetPins (s : State) (P : Params) : (s.resetPins P).adcIn = s.adcIn := by
  simp only [State.resetPins]
@[simp] theorem State.freeCount_resetPins (s : State) (P : Params) : (s.resetPins P).freeCount = s.freeCount := by
  simp only [State.resetPins]
@[simp] theorem State.bank_resetPins (s : State) (P : Params) (b' : BankId) : (s.resetPins P).bank b' = s.bank b' :=
  State.bank_congr (by simp only [State.resetPins]) b'
@[simp] theorem State.att_resetPins (s : State) (P : Params) (b' : BankId) : (s.resetPins P).att b' = s.att b' :=
  State.att_congr (by simp only [State.resetPins]) b'
@[simp] theorem State.port_resetPins (s : State) (P : Params) (k' : PortId) : (s.resetPins P).port k' = s.port k' :=
  State.port_congr (by simp only [State.resetPins]) k'
@[simp] theorem State.addr_resetPins (s : State) (P : Params) (y : Bus) : (s.resetPins P).addr y = s.addr y := by
  simp only [State.addr, State.resetPins]

/-! ### `resetAlgorithm` changes nothing else -/

@[simp] theorem State.banks_resetAlgorithm (s : State) (P : Params) : (s.resetAlgorithm P).banks = s.banks := by
  simp only [State.resetAlgorithm, State.resetPins, State.resetPorts]
@[simp] theorem State.attached_resetAlgorithm (s : State) (P : Params) : (s.resetAlgorithm P).attached = s.attached := by
  simp only [State.resetAlgorithm, State.resetPins, State.resetPorts]
@[simp] theorem State.addrP_resetAlgorithm (s : State) (P : Params) : (s.resetAlgorithm P).addrP = s.addrP := by
  simp only [State.resetAlgorithm, State.resetPins, State.resetPorts]
@[simp] theorem State.addrS_resetAlgorithm (s : State) (P : Params) : (s.resetAlgorithm P).addrS = s.addrS := by
  simp only [State.resetAlgorithm, State.resetPins, State.resetPorts]
@[simp] theorem State.cmdReady_resetAlgorithm (s : State) (P : Params) : (s.resetAlgorithm P).cmdReady = s.cmdReady := by
  simp only [State.resetAlgorithm, State.resetPins, State.resetPorts]
@[simp] theorem State.done_resetAlgorithm (s : State) (P : Params) : (s.resetAlgorithm P).done = s.done := by
  simp only [State.resetAlgorithm, State.resetPins, State.resetPorts]
@[simp] theorem State.rsp_resetAlgorithm (s : State) (P : Params) : (s.resetAlgorithm P).rsp = s.rsp := by
  simp only [State.resetAlgorithm, State.resetPins, State.resetPorts]
@[simp] theorem State.evt_resetAlgorithm (s : State) (P : Params) : (s.resetAlgorithm P).evt = s.evt := by
  simp only [State.resetAlgorithm, State.resetPins, State.resetPorts]
@[simp] theorem State.trace_resetAlgorithm (s : State) (P : Params) : (s.resetAlgorithm P).trace = s.trace := by
  simp only [State.resetAlgorithm, State.resetPins, State.resetPorts]
@[simp] theorem State.input_resetAlgorithm (s : State) (P : Params) : (s.resetAlgorithm P).input = s.input := by
  simp only [State.resetAlgorithm, State.resetPins, State.resetPorts]
@[simp] theorem State.dataIn_resetAlgorithm (s : State) (P : Params) : (s.resetAlgorithm P).dataIn = s.dataIn := by
  simp only [State.resetAlgorithm, State.resetPins, State.resetPorts]
@[simp] theorem State.adcIn_resetAlgorithm (s : State) (P : Params) : (s.resetAlgorithm P).adcIn = s.adcIn := by
  simp only [State.resetAlgorithm, State.resetPins, State.resetPorts]
@[simp] theorem State.freeCount_resetAlgorithm (s : State) (P : Params) : (s.resetAlgorithm P).freeCount = s.freeCount := by
  simp only [State.resetAlgorithm, State.resetPins, State.resetPorts]
@[simp] theorem State.bank_resetAlgorithm (s : State) (P : Params) (b' : BankId) : (s.resetAlgorithm P).bank b' = s.bank b' :=
  State.bank_congr (by simp only [State.resetAlgorithm, State.resetPins, State.resetPorts]) b'
@[simp] theorem State.att_resetAlgorithm (s : State) (P : Params) (b' : BankId) : (s.resetAlgorithm P).att b' = s.att b' :=
  State.att_congr (by simp only [State.resetAlgorithm, State.resetPins, State.resetPorts]) b'
@[simp] theorem State.addr_resetAlgorithm (s : State) (P : Params) (y : Bus) : (s.resetAlgorithm P).addr y = s.addr y := by
  simp only [State.addr, State.resetAlgorithm, State.resetPins, State.resetPorts]

end Sys2Proof.Machine
end

