-- ==== Sys2Proof/Laws/AnyHardware.lean ====
section
/-! SUPPORT. What the parameters and the attached banks' circuits do to the operations (spec 00_scope.md R8; 10_state.md R25, R34;
70_reset_and_hazards.md R247). -/

namespace Sys2Proof.Machine

/-! ### The jumpers are read by no write (R25) -/

theorem State.wrchAll_jumper (P : Params) (jumper : BankId → Mode) (l : List Write) (s : State) :
    s.wrchAll { P with jumper := jumper } l = s.wrchAll P l := by
  induction l generalizing s with
  | nil => rfl
  | cons w l ih => rw [State.wrchAll, State.wrchAll, ih]; rfl

theorem wrchAllSteps_jumper (P : Params) (jumper : BankId → Mode) (l : List Write) (sh : BankId → Frame) :
    wrchAllSteps { P with jumper := jumper } l sh = wrchAllSteps P l sh := by
  induction l generalizing sh with
  | nil => rfl
  | cons w l ih => rw [wrchAllSteps, wrchAllSteps, ih]; rfl

/-! ### The circuits of an attached bank -/

/-- `SEL` of banks 1 to 3 is the mode's; banks 4 to 6 have none (R33, R122). -/
theorem State.sel_eq (s : State) (b : BankId) :
    s.sel b = if bankNumber b ≤ 3 then some (decide ((s.bank b).mode = .digitalOut)) else none := by
  unfold State.sel selOf
  cases (s.bank b).mode <;> rfl

@[simp] theorem State.jumperMatches_iff (s : State) (P : Params) (b : BankId) :
    s.jumperMatches P b = true ↔ bankNumber b ≤ 3 ∨ (s.bank b).mode = P.jumper b := by
  simp [State.jumperMatches]

/-- The write circuit is active exactly in DigitalOut: the mode's for banks 1 to 3, the jumper's for banks 4 to 6 (R34). -/
theorem State.writeCircuitActive_iff (s : State) (P : Params) (b : BankId) :
    s.writeCircuitActive P b = true ↔ (if bankNumber b ≤ 3 then (s.bank b).mode else P.jumper b) = .digitalOut := by
  unfold State.writeCircuitActive
  rw [State.sel_eq]
  by_cases h : bankNumber b ≤ 3 <;> simp [h]

end Sys2Proof.Machine
end

