-- ==== Sys2Proof/Laws/Bits.lean ====
section
/-! SUPPORT. The bit operations, each by its bits. -/

namespace Sys2Proof.Machine

@[simp] theorem setBit_getLsbD {n : Nat} (x : BitVec n) (i j : Nat) (v : Bool) :
    (setBit x i v).getLsbD j = if j = i then (v && decide (j < n)) else x.getLsbD j := by
  unfold setBit
  by_cases hj : j < n
  · rcases Nat.lt_trichotomy j i with h | h | h
    · cases v <;> simp [hj, h, Nat.ne_of_lt h]
    · subst h; cases v <;> simp [hj]
    · have : ¬ j < i := by omega
      have h1 : ¬ (j - i = 0) := by omega
      cases v <;> simp [hj, this, h1, Nat.ne_of_gt h]
  · have h1 := BitVec.getLsbD_of_ge x j (by omega)
    cases v <;> simp [hj, h1]

@[simp] theorem setBit_getElem {n : Nat} (x : BitVec n) (i j : Nat) (v : Bool) (hj : j < n) :
    (setBit x i v)[j] = if j = i then v else x[j] := by
  rw [← BitVec.getLsbD_eq_getElem hj, setBit_getLsbD, BitVec.getLsbD_eq_getElem hj]
  simp [hj]

theorem setBit_same {n : Nat} (x : BitVec n) (i : Nat) (hi : i < n) (v : Bool) (h : x.getLsbD i = v) : setBit x i v = x := by
  apply BitVec.eq_of_getLsbD_eq
  intro j hj
  simp only [setBit_getLsbD]
  split
  · next e => subst e; rw [h]; simp [hj]
  · rfl

theorem setBit_setBit {n : Nat} (x : BitVec n) (i : Nat) (u v : Bool) : setBit (setBit x i u) i v = setBit x i v := by
  apply BitVec.eq_of_getLsbD_eq
  intro j _
  simp only [setBit_getLsbD]
  split <;> rfl

/-- Bit `j` of a shift stage after one bit: the new bit at 0, every other bit one place up (R131). -/
theorem shiftUp_getLsbD (sr : Frame) (d : Level) (j : Nat) (hj : j < 16) :
    (shiftUp sr d).getLsbD j = if j = 0 then d else sr.getLsbD (j - 1) := by
  unfold shiftUp
  rw [BitVec.getLsbD_concat]
  split
  · rfl
  · rw [BitVec.getLsbD_setWidth]
    have : j - 1 < 15 := by omega
    simp [this]

/-- Sixteen bits shifted in, highest channel first, fill the shift stage with the frame (R66, R131). -/
theorem foldl_shiftUp_frame (sr f : Frame) : frameOrder.foldl (fun acc i => shiftUp acc (f.getLsbD i)) sr = f := by
  apply BitVec.eq_of_getLsbD_eq
  intro j hj
  simp only [frameOrder, List.foldl_cons, List.foldl_nil]
  have : j = 0 ∨ j = 1 ∨ j = 2 ∨ j = 3 ∨ j = 4 ∨ j = 5 ∨ j = 6 ∨ j = 7 ∨ j = 8 ∨ j = 9 ∨ j = 10 ∨ j = 11 ∨ j = 12 ∨ j = 13 ∨ j = 14
      ∨ j = 15 := by omega
  rcases this with h | h | h | h | h | h | h | h | h | h | h | h | h | h | h | h <;> subst h <;> simp [shiftUp_getLsbD, -BitVec.getLsbD_eq_getElem]

theorem byteOfBits_getLsbD (l : List Bool) (i : Nat) (hi : i < 8) : (byteOfBits l).getLsbD i = l.getD i false := by
  induction l generalizing i with
  | nil => simp [byteOfBits]
  | cons b l ih =>
    rw [byteOfBits, BitVec.getLsbD_or, BitVec.getLsbD_shiftLeft]
    cases i with
    | zero => simp
    | succ i => simp [ih i (by omega), hi]

theorem bitValue_toNat_le (v : Bool) : (bitValue v).toNat ≤ 1 := by cases v <;> decide

theorem initialCache_toNat_le (m : Mode) : (initialCache m).toNat ≤ 1 := by cases m <;> decide

end Sys2Proof.Machine
end

