-- ==== Sys2Proof/Laws/Decode.lean ====
section
/-! SUPPORT. The fields of a word and the rows of the opcode map (spec 30_encoding.md R90, R94). -/

namespace Sys2Proof

@[simp] theorem opField_mkWord (op a b c : Byte) : opField (mkWord op a b c) = op := by
  apply BitVec.eq_of_getLsbD_eq
  intro i hi
  simp only [opField, mkWord, BitVec.getLsbD_extractLsb', BitVec.getLsbD_append]
  have h1 : ¬ 24 + i < 8 := by omega
  have h2 : ¬ 24 + i - 8 < 8 := by omega
  have h3 : ¬ 24 + i - 8 - 8 < 8 := by omega
  have h4 : 24 + i - 8 - 8 - 8 = i := by omega
  simp [hi, h1, h2, h3, h4]

@[simp] theorem aField_mkWord (op a b c : Byte) : aField (mkWord op a b c) = a := by
  apply BitVec.eq_of_getLsbD_eq
  intro i hi
  simp only [aField, mkWord, BitVec.getLsbD_extractLsb', BitVec.getLsbD_append]
  have h1 : ¬ 16 + i < 8 := by omega
  have h2 : ¬ 16 + i - 8 < 8 := by omega
  have h3 : 16 + i - 8 - 8 = i := by omega
  simp [hi, h1, h2, h3]

@[simp] theorem bField_mkWord (op a b c : Byte) : bField (mkWord op a b c) = b := by
  apply BitVec.eq_of_getLsbD_eq
  intro i hi
  simp only [bField, mkWord, BitVec.getLsbD_extractLsb', BitVec.getLsbD_append]
  have h1 : ¬ 8 + i < 8 := by omega
  have h2 : 8 + i - 8 = i := by omega
  simp [hi, h1, h2]

@[simp] theorem cField_mkWord (op a b c : Byte) : cField (mkWord op a b c) = c := by
  apply BitVec.eq_of_getLsbD_eq
  intro i hi
  simp only [cField, mkWord, BitVec.getLsbD_extractLsb', BitVec.getLsbD_append, Nat.zero_add]
  simp [hi]

/-- Every row of R94 is found by its own `op` byte: no two rows share one. -/
@[simp] theorem opcodeOf_code (o : Opcode) : opcodeOf o.code = some o := by
  cases o <;> decide

/-- A field holds every operand that fits it (R91). -/
@[simp] theorem operandField_toNat {n : Nat} (h : n < 256) : (operandField n).toNat = n := by
  rw [operandField, BitVec.toNat_ofNat]
  exact Nat.mod_eq_of_lt h

/-- The word of an opcode with given fields decodes to that opcode's command (R91, R94). -/
theorem decode_mkWord (o : Opcode) (a b c : Byte) : decode (mkWord o.code a b c) = .ok (commandOf o a b c) := by
  simp [decode]

/-- `decode` answers a command exactly when the `op` byte is a row's, and it is that row's command (R94, R95). -/
theorem decode_eq_ok {w : CmdWord} {i : Instr} (h : decode w = .ok i) :
    ∃ o, opcodeOf (opField w) = some o ∧ i = commandOf o (aField w) (bField w) (cField w) := by
  unfold decode at h
  split at h
  · next o ho => exact ⟨o, ho, by cases h; rfl⟩
  · cases h

end Sys2Proof
end

