-- ==== Sys2Proof/Laws/Lines.lean ====
section
/-! SUPPORT. What a run of line steps does: the shift of one bit, of a frame, a whole `WRCH`, a read (spec 40_bank_driver.md R123 to
R128, R131). -/

namespace Sys2Proof.Machine

@[simp] theorem State.runSteps_nil (s : State) (P : Params) : s.runSteps P [] = s := rfl

@[simp] theorem State.runSteps_cons (s : State) (P : Params) (st : LineStep) (l : List LineStep) :
    s.runSteps P (st :: l) = (s.drive P st).runSteps P l := rfl

theorem State.runSteps_append (s : State) (P : Params) (l m : List LineStep) : s.runSteps P (l ++ m) = (s.runSteps P l).runSteps P m := by
  simp [State.runSteps]

/-- `ShiftBit` with the clock low before it: one bit enters the shift stage, the controller's when it drives the line (R124, R131). -/
theorem State.runSteps_shiftBit (s : State) (P : Params) (b : BankId) (d : Level) (h : (s.bank b).sclk = false) :
    ∃ bit, (s.dataDir b = true → bit = d) ∧ s.runSteps P (shiftBit b d) =
      { s with
        banks := s.banks.set b.val { s.bank b with dataOut := d } b.isLt
        attached := s.attached.set b.val { s.att b with sr := shiftUp (s.att b).sr bit } b.isLt
        trace := s.trace ++ shiftBit b d
        freeCount := if s.dataDir b then s.freeCount else s.freeCount + 1 } := by
  cases hd : s.dataDir b
  · refine ⟨Config.freeBit s.freeCount, by simp, ?_⟩
    simp only [State.dataDir] at hd
    simp [shiftBit, State.drive, State.apply, State.driveSclk, State.shiftIn, State.setBank, State.setAtt, State.bank, State.att,
      State.dataDir] at h hd ⊢
    simp [h, hd]
  · refine ⟨d, by simp, ?_⟩
    simp only [State.dataDir] at hd
    simp [shiftBit, State.drive, State.apply, State.driveSclk, State.shiftIn, State.setBank, State.setAtt, State.bank, State.att,
      State.dataDir] at h hd ⊢
    simp [h, hd]

/-- A run of `ShiftBit`s with the clock low before it (R123 step 4). -/
theorem State.runSteps_shiftBits (s : State) (P : Params) (b : BankId) (l : List Level) (h : (s.bank b).sclk = false) :
    ∃ bits, (s.dataDir b = true → bits = l) ∧ s.runSteps P (l.flatMap (shiftBit b)) =
      { s with
        banks := s.banks.set b.val { s.bank b with dataOut := l.getLastD (s.bank b).dataOut } b.isLt
        attached := s.attached.set b.val { s.att b with sr := bits.foldl shiftUp (s.att b).sr } b.isLt
        trace := s.trace ++ l.flatMap (shiftBit b)
        freeCount := if s.dataDir b then s.freeCount else s.freeCount + l.length } := by
  induction l generalizing s with
  | nil =>
    refine ⟨[], by simp, State.ext ?_ ?_ rfl rfl rfl rfl rfl rfl rfl rfl rfl (by simp) rfl rfl rfl (by simp)⟩
    · exact (Vector.set_getElem_self ..).symm
    · exact (Vector.set_getElem_self ..).symm
  | cons d l ih =>
    obtain ⟨bit, hbit, e⟩ := s.runSteps_shiftBit P b d h
    have hbank : (s.runSteps P (shiftBit b d)).bank b = { s.bank b with dataOut := d } := by rw [e]; simp [State.bank]
    have hatt : (s.runSteps P (shiftBit b d)).att b = { s.att b with sr := shiftUp (s.att b).sr bit } := by
      rw [e]; simp [State.att]
    have hdir : (s.runSteps P (shiftBit b d)).dataDir b = s.dataDir b := by simp [State.dataDir, hbank]
    obtain ⟨bits, hbits, e'⟩ := ih (s.runSteps P (shiftBit b d)) (by rw [hbank]; exact h)
    rw [hdir] at hbits e'
    refine ⟨bit :: bits, fun hd => by rw [hbit hd, hbits hd], ?_⟩
    rw [List.flatMap_cons, State.runSteps_append, e', hbank, hatt]
    simp only [e]
    refine State.ext (by rw [List.getLastD_cons]; simp) (by simp) rfl rfl rfl rfl rfl rfl rfl rfl rfl (by simp) rfl rfl rfl ?_
    cases hd : s.dataDir b
    · simp; omega
    · simp

/-- The latch line driven low makes no edge (R125, R131). -/
theorem State.driveAddr_latch_low (s : State) (P : Params) (x : Bus) :
    s.driveAddr P x (setBit (s.addr x) 3 false) = s.putAddr x (setBit (s.addr x) 3 false) := by
  simp [State.driveAddr, State.latchLine]

/-- The latch line driven high after low commits the bus (R125, R131). -/
theorem State.driveAddr_latch_rise (s : State) (P : Params) (x : Bus) (h : s.latchLine x = false) :
    s.driveAddr P x (setBit (s.addr x) 3 true) = (s.putAddr x (setBit (s.addr x) 3 true)).commit P x := by
  simp [State.driveAddr, h]

/-- What a valid `WRCH` does when the bank's clock is low before it: the frame `f` is shifted and latched (R123, R131).  The shift
stage ends with `f` when the controller drives the line, with any value `x` otherwise. -/
theorem State.wrch_spec (s : State) (P : Params) (b : BankId) (c : ChanId) (v : Level) (h : (s.bank b).sclk = false) :
    ∃ x : Frame, (s.dataDir b = true → x = setBit (s.bank b).shadow c.val v) ∧ s.wrch P b c v =
      { s.framed P b (setBit (s.bank b).shadow c.val v) x with
        trace := s.trace ++ wrchSteps P b c v (s.bank b).shadow
        freeCount := if s.dataDir b then s.freeCount else s.freeCount + 16 } := by
  unfold State.framed
  have hrun : s.wrch P b c v =
      (((s.runSteps P [.setShadow b c v, .outMode b true, .latch (busOf P b) false]).runSteps P
        (shiftFrame b (setBit (s.bank b).shadow c.val v))).runSteps P
          [.latch (busOf P b) true, .latch (busOf P b) false, .outMode b false]) := by
    rw [State.wrch, wrchSteps, State.runSteps_append, State.runSteps_append]
  have hfirst : s.runSteps P [.setShadow b c v, .outMode b true, .latch (busOf P b) false] =
      { s with
        banks := s.banks.set b.val
          { s.bank b with shadow := setBit (s.bank b).shadow c.val v, outMode := true } b.isLt
        addrP := if busOf P b = .primary then setBit s.addrP 3 false else s.addrP
        addrS := if busOf P b = .secondary then setBit s.addrS 3 false else s.addrS
        trace := s.trace ++ [.setShadow b c v, .outMode b true, .latch (busOf P b) false] } := by
    simp only [State.runSteps_cons, State.runSteps_nil, State.drive, State.apply, State.driveAddr_latch_low]
    cases hx : busOf P b <;> simp [State.putAddr, State.addr, State.setBank, State.bank]
  have hlast : ∀ t : State, t.latchLine (busOf P b) = false →
      t.runSteps P [.latch (busOf P b) true, .latch (busOf P b) false, .outMode b false] =
      { t.commit P (busOf P b) with
        banks := t.banks.set b.val { t.bank b with outMode := false } b.isLt
        addrP := if busOf P b = .primary then setBit t.addrP 3 false else t.addrP
        addrS := if busOf P b = .secondary then setBit t.addrS 3 false else t.addrS
        trace := t.trace ++ [.latch (busOf P b) true, .latch (busOf P b) false, .outMode b false] } := by
    intro t ht
    simp only [State.runSteps_cons, State.runSteps_nil, State.drive, State.apply, State.driveAddr_latch_low]
    rw [State.driveAddr_latch_rise t P (busOf P b) ht]
    cases hx : busOf P b <;>
      simp [State.putAddr, State.addr, State.setBank, State.bank, State.commit, State.att, setBit_setBit]
  have hframe : shiftFrame b (setBit (s.bank b).shadow c.val v) =
      (frameOrder.map (setBit (s.bank b).shadow c.val v).getLsbD).flatMap (shiftBit b) := by
    rw [shiftFrame, List.flatMap_map]
  generalize hf : setBit (s.bank b).shadow c.val v = f at *
  generalize ht : s.runSteps P [.setShadow b c v, .outMode b true, .latch (busOf P b) false] = t at *
  have tbank : t.bank b = { s.bank b with shadow := f, outMode := true } := by rw [hfirst]; simp [State.bank]
  have tatt : ∀ b', t.att b' = s.att b' := fun b' => State.att_congr (by rw [hfirst]) b'
  have tdir : t.dataDir b = s.dataDir b := by simp [State.dataDir, tbank]
  obtain ⟨bits, hbits, e⟩ := t.runSteps_shiftBits P b (frameOrder.map f.getLsbD) (by rw [tbank]; exact h)
  rw [← hframe, tbank, tatt, tdir] at e
  generalize hu : t.runSteps P (shiftFrame b f) = u at *
  have ubanks : u.banks = s.banks.set b.val
      { s.bank b with shadow := f, outMode := true, dataOut := f.getLsbD 0 } b.isLt := by
    rw [e, hfirst]; simp [frameOrder]
  have ubank : u.bank b = { s.bank b with shadow := f, outMode := true, dataOut := f.getLsbD 0 } := by
    simp [State.bank, ubanks]
  have uatt : ∀ b', u.att b' = if b' = b then { s.att b with sr := bits.foldl shiftUp (s.att b).sr } else s.att b' := by
    intro b'
    have : u.attached = (s.setAtt b { s.att b with sr := bits.foldl shiftUp (s.att b).sr }).attached := by
      rw [e, hfirst]; rfl
    rw [State.att_congr this, State.att_setAtt]
  have uaddrP : u.addrP = if busOf P b = .primary then setBit s.addrP 3 false else s.addrP := by rw [e, hfirst]
  have uaddrS : u.addrS = if busOf P b = .secondary then setBit s.addrS 3 false else s.addrS := by rw [e, hfirst]
  have ulatch : u.latchLine (busOf P b) = false := by
    cases hx : busOf P b <;> simp [State.latchLine, State.addr, hx, uaddrP, uaddrS]
  refine ⟨bits.foldl shiftUp (s.att b).sr, fun hd => ?_, ?_⟩
  · rw [hbits (tdir.trans hd), List.foldl_map]; exact foldl_shiftUp_frame _ f
  · rw [hrun, hlast u ulatch, ubank]
    refine State.ext ?_ ?_ ?_ ?_ ?_ ?_ ?_ ?_ ?_ ?_ ?_ ?_ ?_ ?_ ?_ ?_
    · simp [ubanks, h]
    · apply Vector.ext
      intro i hi
      have h1 := State.att_commit u P (busOf P b) ⟨i, hi⟩
      rw [uatt] at h1
      rw [Vector.getElem_ofFn]
      refine h1.trans ?_
      by_cases hb : (⟨i, hi⟩ : BankId) = b
      · simp [hb]
      · simp [hb]
    · simp [e, hfirst]
    · simp [e, hfirst]
    · simp [e, hfirst]
    · simp only [uaddrP]; split <;> simp [setBit_setBit]
    · simp only [uaddrS]; split <;> simp [setBit_setBit]
    · simp [e, hfirst]
    · simp [e, hfirst]
    · simp [e, hfirst]
    · simp [e, hfirst]
    · simp [e, hfirst, wrchSteps, hf]
    · simp [e, hfirst]
    · simp [e, hfirst]
    · simp [e, hfirst]
    · simp [e, hfirst, frameOrder]

/-! ### Reads -/

/-- An address presented on a bus: the bus commits when bit 3 rises (R70, R131, R137). -/
theorem State.driveAddr_channel (s : State) (P : Params) (x : Bus) (c : ChanId) :
    s.driveAddr P x (BitVec.ofNat 4 c.val) =
      { s with
        attached := Vector.ofFn fun b' =>
          if busOf P b' = x ∧ s.latchLine x = false ∧ 8 ≤ c.val then { sr := (s.att b').sr, q := (s.att b').sr } else s.att b'
        addrP := if x = .primary then BitVec.ofNat 4 c.val else s.addrP
        addrS := if x = .secondary then BitVec.ofNat 4 c.val else s.addrS } := by
  have hbit : (BitVec.ofNat 4 c.val).getLsbD 3 = decide (8 ≤ c.val) := by revert c; decide
  rw [State.driveAddr, hbit]
  by_cases hr : s.latchLine x = false ∧ 8 ≤ c.val
  · cases x <;> simp [State.putAddr, State.commit, State.att, hr.1, hr.2]
  · have hno : ∀ b', ¬ (busOf P b' = x ∧ s.latchLine x = false ∧ 8 ≤ c.val) := fun b' h => hr h.2
    have hcond : (!s.latchLine x && decide (8 ≤ c.val)) = false := by
      cases hl : s.latchLine x <;> simp_all
    have hatt : (Vector.ofFn fun b' : BankId => s.att b') = s.attached := by
      apply Vector.ext; intro i hi; simp [State.att]
    simp only [hcond, hno, if_false, hatt]
    cases x <;> simp [State.putAddr]

/-- The steps of a read before its sample (R126, R128). -/
theorem State.runSteps_present (s : State) (P : Params) (b : BankId) (c : ChanId) :
    s.runSteps P (presentSteps P b c) = { s.addressed P b c with trace := s.trace ++ presentSteps P b c } := by
  simp only [presentSteps, State.runSteps_cons, State.runSteps_nil, State.drive, State.apply, State.driveAddr_channel]
  simp [State.addressed, State.setBank, State.latchLine, State.addr, State.att]

end Sys2Proof.Machine
end

