-- ==== Sys2Proof/Laws/Operands.lean ====
section
/-! SUPPORT. The operand forms on valid and invalid operands, and the maps (spec 20_memory.md R60 to R64, 40_bank_driver.md R120). -/

namespace Sys2Proof.Machine

@[simp] theorem bankOperand_number (b : BankId) : bankOperand (bankNumber b) = some b := by
  revert b; decide

@[simp] theorem chanOperand_val (c : ChanId) : chanOperand c.val = some c := by
  have h : c.val ≤ 15 := by omega
  simp [chanOperand, h]

@[simp] theorem pinOperand_val (p : PinId) : pinOperand p.val = some p := by
  have h : p.val ≤ 95 := by omega
  simp [pinOperand, h]

@[simp] theorem portOperand_val (k : PortId) : portOperand k.val = some k := by
  have h : k.val ≤ 11 := by omega
  simp [portOperand, h]

@[simp] theorem analogPinOperand_val (c : ChanId) : analogPinOperand c.val = some c := by
  have h : c.val ≤ 15 := by omega
  simp [analogPinOperand, h]

@[simp] theorem modeOperand_code (m : Mode) : modeOperand (modeCode m).toNat = some m := by
  cases m <;> rfl

theorem bankOperand_none {n : Nat} (h : n = 0 ∨ 6 < n) : bankOperand n = none := by
  have : ¬ (1 ≤ n ∧ n ≤ 6) := by omega
  simp [bankOperand, this]

theorem chanOperand_none {n : Nat} (h : 15 < n) : chanOperand n = none := by
  have : ¬ n ≤ 15 := by omega
  simp [chanOperand, this]

theorem pinOperand_none {n : Nat} (h : 95 < n) : pinOperand n = none := by
  have : ¬ n ≤ 95 := by omega
  simp [pinOperand, this]

theorem portOperand_none {n : Nat} (h : 11 < n) : portOperand n = none := by
  have : ¬ n ≤ 11 := by omega
  simp [portOperand, this]

theorem analogPinOperand_none {n : Nat} (h : 15 < n) : analogPinOperand n = none := by
  have : ¬ n ≤ 15 := by omega
  simp [analogPinOperand, this]

theorem modeOperand_none {n : Nat} (h : 5 ≤ n) : modeOperand n = none := by
  match n, h with
  | k + 5, _ => rfl

theorem bankNumber_of_bankOperand {n : Nat} {b : BankId} (h : bankOperand n = some b) : n = bankNumber b := by
  unfold bankOperand at h
  split at h
  · next hn => cases h; simp [bankNumber]; omega
  · cases h

theorem val_of_chanOperand {n : Nat} {c : ChanId} (h : chanOperand n = some c) : n = c.val := by
  unfold chanOperand at h
  split at h
  · cases h; rfl
  · cases h

theorem val_of_pinOperand {n : Nat} {p : PinId} (h : pinOperand n = some p) : n = p.val := by
  unfold pinOperand at h
  split at h
  · cases h; rfl
  · cases h

theorem val_of_portOperand {n : Nat} {k : PortId} (h : portOperand n = some k) : n = k.val := by
  unfold portOperand at h
  split at h
  · cases h; rfl
  · cases h

theorem val_of_analogPinOperand {n : Nat} {c : ChanId} (h : analogPinOperand n = some c) : n = c.val := by
  unfold analogPinOperand at h
  split at h
  · cases h; rfl
  · cases h

theorem code_of_modeOperand {n : Nat} {m : Mode} (h : modeOperand n = some m) : n = (modeCode m).toNat := by
  unfold modeOperand at h
  split at h <;> cases h <;> rfl

/-! ### This hardware's parameters -/

@[simp] theorem hw_pinMap : Config.hw.pinMap = Config.pinMap := rfl
@[simp] theorem hw_busMap : Config.hw.busMap = Config.busMap := rfl
@[simp] theorem hw_bankCap : Config.hw.bankCap = Config.bankCap := rfl
@[simp] theorem hw_allowed : Config.hw.allowed = Config.allowed := rfl
@[simp] theorem hw_bankModeInit : Config.hw.bankModeInit = Config.bankModeInit := rfl
@[simp] theorem hw_excl (p : PinId) : Config.hw.excl p = false := rfl
@[simp] theorem hw_jumper : Config.hw.jumper = Config.jumper := rfl

/-- `AW` lies between 1 and 16 (R8). -/
theorem paramsAW_range (P : Params) : 1 ≤ P.AW ∧ P.AW ≤ 16 := by unfold Params.AW; omega

theorem isOnlyDigitalOut_iff (modes : List Mode) : isOnlyDigitalOut modes = true ↔ ∀ m, m ∈ modes ↔ m = .digitalOut := by
  simp only [isOnlyDigitalOut, Bool.and_eq_true, List.contains_iff_mem, List.all_eq_true, beq_iff_eq]
  exact ⟨fun ⟨h, hall⟩ m => ⟨hall m, fun e => e ▸ h⟩, fun h => ⟨(h _).2 rfl, fun m hm => (h m).1 hm⟩⟩

/-! ### The maps -/

/-- A pin of this hardware is the bit of its port at its bit number (R62). -/
theorem portPin_portOf (p : PinId) : portPin (portOf Config.hw p) (bitOf Config.hw p) = p := by
  apply Fin.ext; simp only [portPin, portOf, bitOf, hw_pinMap, Config.pinMap]; omega

theorem portOf_portPin (k : PortId) (i : Fin 8) : portOf Config.hw (portPin k i) = k := by
  apply Fin.ext; simp only [portPin, portOf, hw_pinMap, Config.pinMap]; omega

theorem bitOf_portPin (k : PortId) (i : Fin 8) : bitOf Config.hw (portPin k i) = i := by
  apply Fin.ext; simp only [portPin, bitOf, hw_pinMap, Config.pinMap]; omega

/-- A port of this hardware lies wholly in one bank, on the channels of its pins (R63). -/
theorem bankOf_portPin (k : PortId) (i : Fin 8) : bankOf Config.hw (portPin k i) = portBank k := by
  apply Fin.ext; simp only [portPin, bankOf, portBank, hw_pinMap, Config.pinMap]; omega

theorem chanOf_portPin (k : PortId) (i : Fin 8) : chanOf Config.hw (portPin k i) = portChan k i := by
  apply Fin.ext; simp only [portPin, chanOf, portChan, hw_pinMap, Config.pinMap]; omega

/-- What a pin of this hardware may be, its bank can be (R8, R27). -/
theorem allowed_in_bankCap (p : PinId) (m : Mode) (h : m ∈ Config.allowed p) : m ∈ Config.bankCap (bankOf Config.hw p) := by
  revert p m; decide

end Sys2Proof.Machine
end

