-- ==== Sys2Proof/Laws/PerInstr.lean ====
section
/-! SUPPORT. A fact of every command as syntax: the `op` byte of its word is its row's of R94. -/

namespace Sys2Proof.Laws.OpcodeOfWord

/-- The word of the command carries the command's opcode in bits 31:24 (R90, R94). -/
def Statement (i : Instr) : Prop := opcodeOf (opField (encode i)) = some i.opcode

theorem holds (i : Instr) : Statement i := by simp [Statement, encode]

theorem cfg (bank mode : Nat) : Statement (.cfg bank mode) := holds _
theorem wrch (bank chan value : Nat) : Statement (.wrch bank chan value) := holds _
theorem rdd (bank chan : Nat) : Statement (.rdd bank chan) := holds _
theorem rda (bank chan : Nat) : Statement (.rda bank chan) := holds _
theorem qbank (bank : Nat) : Statement (.qbank bank) := holds _
theorem reset : Statement .reset := holds _
theorem setmode (pin mode : Nat) : Statement (.setmode pin mode) := holds _
theorem wrport (port : Nat) (byte : Byte) : Statement (.wrport port byte) := holds _
theorem wrpin (pin value : Nat) : Statement (.wrpin pin value) := holds _
theorem sampd (port force : Nat) : Statement (.sampd port force) := holds _
theorem sampa (pin : Nat) : Statement (.sampa pin) := holds _
theorem repd (port enable : Nat) : Statement (.repd port enable) := holds _
theorem repa (pin enable : Nat) : Statement (.repa pin enable) := holds _
theorem qpin (pin : Nat) : Statement (.qpin pin) := holds _
theorem qport (port : Nat) : Statement (.qport port) := holds _

end Sys2Proof.Laws.OpcodeOfWord
end

