-- ==== Sys2Proof/Laws/PowerOn.lean ====
section
/-! SUPPORT. What the line steps record, what `CFG` and the power-on sequence do (spec 20_memory.md R72; 40_bank_driver.md R121;
70_reset_and_hazards.md R240, R241). -/

namespace Sys2Proof.Machine

/-! ### The record of line steps -/

/-- A line step records itself, and touches neither the pin and port records nor the host-side ports (R170). -/
theorem State.drive_other (s : State) (P : Params) (st : LineStep) :
    (s.drive P st).trace = s.trace ++ [st] ∧ (s.drive P st).input = s.input ∧ (s.drive P st).pins = s.pins ∧ (s.drive P st).ports = s.ports ∧
      (s.drive P st).analogReport = s.analogReport ∧ (s.drive P st).cmdReady = s.cmdReady ∧ (s.drive P st).done = s.done ∧
      (s.drive P st).rsp = s.rsp ∧ (s.drive P st).evt = s.evt := by
  cases st <;>
    simp only [State.drive, State.apply, State.driveAddr, State.driveSclk, State.shiftIn, State.sampleTaken, State.asampleTaken]
  all_goals (repeat split) <;> simp [State.setBank, State.setAtt, State.commit]

/-- A run of line steps records them in order, and touches neither the pin and port records nor the host-side ports (R72, R170). -/
theorem State.runSteps_other (s : State) (P : Params) (l : List LineStep) :
    (s.runSteps P l).trace = s.trace ++ l ∧ (s.runSteps P l).input = s.input ∧ (s.runSteps P l).pins = s.pins ∧
      (s.runSteps P l).ports = s.ports ∧ (s.runSteps P l).analogReport = s.analogReport ∧ (s.runSteps P l).cmdReady = s.cmdReady ∧
      (s.runSteps P l).done = s.done ∧ (s.runSteps P l).rsp = s.rsp ∧ (s.runSteps P l).evt = s.evt := by
  induction l generalizing s with
  | nil => simp [State.runSteps]
  | cons st l ih =>
    have h := ih (s.drive P st)
    have h1 := s.drive_other P st
    rw [show s.runSteps P (st :: l) = (s.drive P st).runSteps P l from rfl]
    simp only [h1] at h
    simpa using h

/-! ### `CFG` -/

/-- `CFG` of a valid bank and a known mode: one mode write within the bank's capability, nothing outside it (R121). -/
theorem State.cfg_spec (s : State) (P : Params) (b : BankId) (m : Mode) :
    s.cfg P b m = if m ∈ P.bankCap b then
      { s.setBank b { s.bank b with mode := m } with trace := s.trace ++ [.setMode b m] } else s := by
  unfold State.cfg cfgSteps
  split <;> simp [State.runSteps, State.drive, State.apply]

/-! ### The power-on sequence -/

theorem State.bank_powerOnRegisters (s : State) (P : Params) (b : BankId) :
    (s.powerOnRegisters P).bank b =
      { mode := P.bankModeInit b, shadow := 0, outMode := false, dataOut := false, sclk := false } := by
  simp [State.bank, State.powerOnRegisters]

theorem State.pins_powerOn (s : State) (P : Params) : (s.powerOn P).pins = (State.resetWith P).pins := by
  apply Vector.ext
  intro i hi
  have h := State.pin_resetAlgorithm (s.powerOnRegisters P) P ⟨i, hi⟩
  have e : (s.powerOn P).pins[i] = ((s.powerOnRegisters P).resetAlgorithm P).pin ⟨i, hi⟩ := by
    simp only [State.powerOn, State.pin]
  rw [e, h, State.bank_powerOnRegisters]
  simp [State.resetWith]

theorem State.ports_powerOn (s : State) (P : Params) : (s.powerOn P).ports = (State.resetWith P).ports := by
  apply Vector.ext
  intro i hi
  have h := State.port_resetAlgorithm (s.powerOnRegisters P) P ⟨i, hi⟩
  have e : (s.powerOn P).ports[i] = ((s.powerOnRegisters P).resetAlgorithm P).port ⟨i, hi⟩ := by
    simp only [State.powerOn, State.port]
  rw [e, h, State.bank_powerOnRegisters]
  simp only [State.resetWith, Vector.getElem_ofFn, resetPort]
  cases isDigitalInput (P.bankModeInit (portBank ⟨i, hi⟩)) <;> rfl

/-- The power-on sequence gives every register of the block its power-on value; the attached banks, the pending inputs and answers and
the record of line steps stay (R241). -/
theorem State.powerOn_spec (s : State) (P : Params) :
    s.powerOn P = { State.resetWith P with
      attached := s.attached, input := s.input, dataIn := s.dataIn, adcIn := s.adcIn, freeCount := s.freeCount, trace := s.trace } := by
  refine State.ext ?_ ?_ (s.pins_powerOn P) (s.ports_powerOn P) ?_ ?_ ?_ ?_ ?_ ?_ ?_ ?_ ?_ ?_ ?_ ?_ <;>
    simp [State.powerOn, State.powerOnRegisters, State.resetWith]

end Sys2Proof.Machine
end

