-- ==== Sys2Proof/Laws/Transfers.lean ====
section
/-! SUPPORT. What a read, a run of reads and a run of writes do (spec 40_bank_driver.md R123, R126, R128; 42_pin_port_state_machine.md
R176, R178). -/

namespace Sys2Proof.Machine

/-! ### One read -/

/-- `RDD` of a valid bank and channel (R126, R127). -/
theorem State.rdd_spec (s : State) (P : Params) (b : BankId) (c : ChanId) :
    s.rdd P b c = (!s.sampleAt 0,
      { s.addressed P b c with
        trace := s.trace ++ rddSteps P b c
        dataIn := s.dataIn.drop 1
        freeCount := s.freeCount + (1 - s.dataIn.length) }) := by
  simp only [State.rdd, State.runSteps_present]
  cases h : s.dataIn <;>
    simp [State.sampleLevel, State.sampleAt, State.drive, State.apply, State.sampleTaken, correctPolarity, State.addressed, rddSteps, h]

/-- `RDA` of a valid bank and channel (R128). -/
theorem State.rda_spec (s : State) (P : Params) (b : BankId) (c : ChanId) :
    s.rda P b c = (s.asampleValue P,
      { s.addressed P b c with
        trace := s.trace ++ rdaSteps P b c
        adcIn := s.adcIn.drop 1
        freeCount := s.freeCount + (1 - s.adcIn.length) }) := by
  simp only [State.rda, State.runSteps_present]
  cases h : s.adcIn <;>
    simp [State.asampleValue, State.drive, State.apply, State.asampleTaken, State.addressed, rdaSteps, h]

/-- A raw sample fits `AW` bits (R8, R10). -/
theorem State.asampleValue_lt (s : State) (P : Params) : (s.asampleValue P).toNat < 2 ^ P.AW := by
  have hpos : 0 < (2 : Nat) ^ P.AW := Nat.pow_pos (by decide)
  rw [State.asampleValue, BitVec.toNat_ofNat]
  exact Nat.lt_of_le_of_lt (Nat.mod_le _ _) (Nat.mod_lt _ hpos)

/-! ### A run of reads -/

/-- The samples after one has been taken are the later ones. -/
theorem State.sampleAt_after (s t : State) (n : Nat) (hd : t.dataIn = s.dataIn.drop 1)
    (hf : t.freeCount = s.freeCount + (1 - s.dataIn.length)) : t.sampleAt n = s.sampleAt (n + 1) := by
  cases h : s.dataIn with
  | nil => simp [State.sampleAt, hd, hf, h, Nat.add_comm, Nat.add_left_comm]
  | cons v l => simp [State.sampleAt, hd, hf, h]

/-- A second address on the same side of bit 3 replaces the first and makes no new edge (R70, R131). -/
theorem State.addressed_addressed (s t : State) (P : Params) (b : BankId) (c d : ChanId) (hside : 8 ≤ c.val ↔ 8 ≤ d.val)
    (hb : t.banks = (s.addressed P b c).banks) (ha : t.attached = (s.addressed P b c).attached)
    (hp : t.addrP = (s.addressed P b c).addrP) (hs : t.addrS = (s.addressed P b c).addrS) :
    (t.addressed P b d).banks = (s.addressed P b d).banks ∧ (t.addressed P b d).attached = (s.addressed P b d).attached ∧
      (t.addressed P b d).addrP = (s.addressed P b d).addrP ∧ (t.addressed P b d).addrS = (s.addressed P b d).addrS := by
  have hbit : ∀ c : ChanId, c.val.testBit 3 = decide (8 ≤ c.val) := by decide
  have hatt : ∀ b', t.att b' = (s.addressed P b c).att b' := fun b' => State.att_congr ha b'
  have hlatch : t.latchLine (busOf P b) = decide (8 ≤ c.val) := by
    cases hx : busOf P b <;> simp [State.latchLine, State.addr, hp, hs, State.addressed, hx, hbit]
  refine ⟨?_, ?_, ?_, ?_⟩
  · simp [State.addressed, State.bank, hb]
  · apply Vector.ext
    intro i hi
    have h1 : t.att ⟨i, hi⟩ =
        if busOf P ⟨i, hi⟩ = busOf P b ∧ s.latchLine (busOf P b) = false ∧ 8 ≤ c.val then
          { sr := (s.att ⟨i, hi⟩).sr, q := (s.att ⟨i, hi⟩).sr } else s.att ⟨i, hi⟩ := by
      rw [hatt]; simp [State.att, State.addressed]
    simp only [State.addressed, Vector.getElem_ofFn, hlatch, h1]
    by_cases h8 : 8 ≤ d.val <;> simp [h8, hside]
  · cases hx : busOf P b <;> simp [State.addressed, hx, hp]
  · cases hx : busOf P b <;> simp [State.addressed, hx, hs]

/-- A run of `RDD` on one bank whose channels all lie on one side of bit 3 (R178). -/
theorem State.rddAll_spec (P : Params) (b : BankId) (last : ChanId) (l : List ChanId) (s : State)
    (hside : ∀ c ∈ l, (8 ≤ c.val ↔ 8 ≤ last.val)) :
    s.rddAll P b (l ++ [last]) = ((List.range (l.length + 1)).map fun n => !s.sampleAt n,
      { s.addressed P b last with
        trace := s.trace ++ (l ++ [last]).flatMap (rddSteps P b)
        dataIn := s.dataIn.drop (l.length + 1)
        freeCount := s.freeCount + (l.length + 1 - s.dataIn.length) }) := by
  induction l generalizing s with
  | nil => simp [State.rddAll, State.rdd_spec]
  | cons c l ih =>
    have hr := s.rdd_spec P b c
    generalize ht : (s.rdd P b c).2 = t at *
    have e : t = { s.addressed P b c with
        trace := s.trace ++ rddSteps P b c
        dataIn := s.dataIn.drop 1
        freeCount := s.freeCount + (1 - s.dataIn.length) } := by rw [← ht, hr]
    have hc : (s.rdd P b c).1 = !s.sampleAt 0 := by rw [hr]
    have hsample : ∀ n, t.sampleAt n = s.sampleAt (n + 1) := fun n =>
      s.sampleAt_after t n (by rw [e]) (by rw [e])
    obtain ⟨h1, h2, h3, h4⟩ := s.addressed_addressed t P b c last (hside c (by simp)) (by rw [e]) (by rw [e]) (by rw [e]) (by rw [e])
    have hrest := ih t (fun d hd => hside d (by simp [hd]))
    rw [List.cons_append, State.rddAll]
    simp only [ht, hrest, hc, hsample]
    refine Prod.ext ?_ ?_
    · rw [List.length_cons, List.range_succ_eq_map (n := l.length + 1)]
      simp
    · refine State.ext h1 h2 ?_ ?_ ?_ h3 h4 ?_ ?_ ?_ ?_ ?_ ?_ ?_ ?_ ?_
      all_goals simp only [e, State.addressed]
      · simp
      · simp [Nat.add_comm]
      · simp only [List.length_drop, List.length_cons]; omega

theorem portChannels_eq (k : PortId) :
    portChannels k = [portChan k 0, portChan k 1, portChan k 2, portChan k 3, portChan k 4, portChan k 5, portChan k 6] ++
      [portChan k 7] := by
  revert k; decide

/-- The eight reads of a port (R178). -/
theorem State.rddAll_port (s : State) (P : Params) (k : PortId) :
    s.rddAll P (portBank k) (portChannels k) = ((List.range 8).map fun n => !s.sampleAt n,
      { s.addressed P (portBank k) (portChan k 7) with
        trace := s.trace ++ portReadSteps P k
        dataIn := s.dataIn.drop 8
        freeCount := s.freeCount + (8 - s.dataIn.length) }) := by
  rw [portReadSteps, portChannels_eq]
  exact State.rddAll_spec P (portBank k) (portChan k 7) _ s (by revert k; decide)

/-! ### A run of writes -/

/-- The shadow of the bank after a run of writes that all go to it. -/
def writesFrame : List Write → Frame → Frame
  | [], sh => sh
  | (_, c, v) :: rest, sh => writesFrame rest (setBit sh c.val v)

/-- A second frame of the same bank replaces the first (R123, R131). -/
theorem State.framed_framed (s : State) (P : Params) (b : BankId) (f g x y : Frame) (tr : List LineStep) (n : Nat) :
    ({ s.framed P b f x with trace := tr, freeCount := n } : State).framed P b g y =
      { s.framed P b g y with trace := tr, freeCount := n } := by
  have hatt : ∀ b', ({ s.framed P b f x with trace := tr, freeCount := n } : State).att b' =
      if busOf P b' = busOf P b then
        { sr := if b' = b then x else (s.att b').sr, q := if b' = b then x else (s.att b').sr }
      else s.att b' := by intro b'; simp [State.att, State.framed]
  refine State.ext ?_ ?_ rfl rfl rfl ?_ ?_ rfl rfl rfl rfl rfl rfl rfl rfl rfl
  · simp [State.framed, State.bank]
  · apply Vector.ext
    intro i hi
    simp only [State.framed, Vector.getElem_ofFn] at hatt ⊢
    simp only [hatt]
    by_cases hb : (⟨i, hi⟩ : BankId) = b <;> by_cases hx : busOf P ⟨i, hi⟩ = busOf P b <;> simp [hb, hx]
  · cases hx : busOf P b <;> simp [State.framed, hx, setBit_setBit]
  · cases hx : busOf P b <;> simp [State.framed, hx, setBit_setBit]

/-- The line steps of writes that all go to one bank depend on that bank's shadow only (R176). -/
theorem wrchAllSteps_congr (P : Params) (b : BankId) (l : List Write) (hl : ∀ w ∈ l, w.1 = b) (sh sh' : BankId → Frame)
    (h : sh b = sh' b) : wrchAllSteps P l sh = wrchAllSteps P l sh' := by
  induction l generalizing sh sh' with
  | nil => rfl
  | cons w rest ih =>
    obtain ⟨d, c, v⟩ := w
    obtain rfl : d = b := hl (d, c, v) (by simp)
    simp only [wrchAllSteps, h]
    rw [ih (fun w hw => hl w (by simp [hw])) _ (fun b' => if b' = d then setBit (sh' d) c.val v else sh' b') (by simp)]

/-- A run of valid `WRCH` that all go to one bank whose clock is low (R123, R176). -/
theorem State.wrchAll_spec (P : Params) (b : BankId) (l : List Write) (hne : l ≠ []) (hl : ∀ w ∈ l, w.1 = b) (s : State)
    (h : (s.bank b).sclk = false) :
    ∃ x : Frame, (s.dataDir b = true → x = writesFrame l (s.bank b).shadow) ∧ s.wrchAll P l =
      { s.framed P b (writesFrame l (s.bank b).shadow) x with
        trace := s.trace ++ wrchAllSteps P l fun b' => (s.bank b').shadow
        freeCount := if s.dataDir b then s.freeCount else s.freeCount + 16 * l.length } := by
  induction l generalizing s with
  | nil => exact absurd rfl hne
  | cons w rest ih =>
    obtain ⟨d, c, v⟩ := w
    obtain rfl : d = b := hl (d, c, v) (by simp)
    obtain ⟨x, hx, e⟩ := s.wrch_spec P d c v h
    rw [State.wrchAll, writesFrame, wrchAllSteps]
    by_cases hr : rest = []
    · subst hr
      exact ⟨x, hx, by simp [State.wrchAll, e, writesFrame, wrchAllSteps]⟩
    · have hrest : ∀ w ∈ rest, w.1 = d := fun w hw => hl w (by simp [hw])
      have hbank : (s.wrch P d c v).bank d =
          { s.bank d with shadow := setBit (s.bank d).shadow c.val v, outMode := false
                          dataOut := (setBit (s.bank d).shadow c.val v).getLsbD 0, sclk := false } := by
        rw [e]; simp [State.bank, State.framed]
      have hdir : (s.wrch P d c v).dataDir d = s.dataDir d := by simp [State.dataDir, hbank]
      obtain ⟨y, hy, e'⟩ := ih hr hrest (s.wrch P d c v) (by rw [hbank])
      rw [hdir] at hy e'
      rw [wrchAllSteps_congr P d rest hrest _ (fun b' => if b' = d then setBit (s.bank d).shadow c.val v else (s.bank b').shadow)
        (by simp [hbank]), hbank] at e'
      rw [hbank] at hy
      refine ⟨y, hy, ?_⟩
      rw [e', e, State.framed_framed]
      cases hd : s.dataDir d
      · simp; omega
      · simp

/-- `WRCH` leaves the host-side ports, the pin and port records and the listed answers alone (R123). -/
theorem State.framed_other (s : State) (P : Params) (b : BankId) (f x : Frame) :
    (s.framed P b f x).pins = s.pins ∧ (s.framed P b f x).ports = s.ports ∧
      (s.framed P b f x).analogReport = s.analogReport ∧ (s.framed P b f x).rsp = s.rsp ∧ (s.framed P b f x).evt = s.evt :=
  ⟨rfl, rfl, rfl, rfl, rfl⟩

end Sys2Proof.Machine
end

