-- ==== Sys2Proof/Laws/PinPort.lean ====
section
/-! SUPPORT. What the operations of the Pin/Port State Machine do, each said once (spec 42_pin_port_state_machine.md R174 to R179,
R187). -/

namespace Sys2Proof.Machine

/-! ### `WRPORT` -/

@[simp] theorem State.banks_cachePort (s : State) (k : PortId) (byte : Byte) : (s.cachePort k byte).banks = s.banks := by
  simp only [State.cachePort]
@[simp] theorem State.attached_cachePort (s : State) (k : PortId) (byte : Byte) : (s.cachePort k byte).attached = s.attached := by
  simp only [State.cachePort]
@[simp] theorem State.ports_cachePort (s : State) (k : PortId) (byte : Byte) : (s.cachePort k byte).ports = s.ports := by
  simp only [State.cachePort]
@[simp] theorem State.analogReport_cachePort (s : State) (k : PortId) (byte : Byte) :
    (s.cachePort k byte).analogReport = s.analogReport := by
  simp only [State.cachePort]
@[simp] theorem State.addrP_cachePort (s : State) (k : PortId) (byte : Byte) : (s.cachePort k byte).addrP = s.addrP := by
  simp only [State.cachePort]
@[simp] theorem State.addrS_cachePort (s : State) (k : PortId) (byte : Byte) : (s.cachePort k byte).addrS = s.addrS := by
  simp only [State.cachePort]
@[simp] theorem State.cmdReady_cachePort (s : State) (k : PortId) (byte : Byte) : (s.cachePort k byte).cmdReady = s.cmdReady := by
  simp only [State.cachePort]
@[simp] theorem State.done_cachePort (s : State) (k : PortId) (byte : Byte) : (s.cachePort k byte).done = s.done := by
  simp only [State.cachePort]
@[simp] theorem State.rsp_cachePort (s : State) (k : PortId) (byte : Byte) : (s.cachePort k byte).rsp = s.rsp := by
  simp only [State.cachePort]
@[simp] theorem State.evt_cachePort (s : State) (k : PortId) (byte : Byte) : (s.cachePort k byte).evt = s.evt := by
  simp only [State.cachePort]
@[simp] theorem State.trace_cachePort (s : State) (k : PortId) (byte : Byte) : (s.cachePort k byte).trace = s.trace := by
  simp only [State.cachePort]
@[simp] theorem State.input_cachePort (s : State) (k : PortId) (byte : Byte) : (s.cachePort k byte).input = s.input := by
  simp only [State.cachePort]
@[simp] theorem State.dataIn_cachePort (s : State) (k : PortId) (byte : Byte) : (s.cachePort k byte).dataIn = s.dataIn := by
  simp only [State.cachePort]
@[simp] theorem State.adcIn_cachePort (s : State) (k : PortId) (byte : Byte) : (s.cachePort k byte).adcIn = s.adcIn := by
  simp only [State.cachePort]
@[simp] theorem State.freeCount_cachePort (s : State) (k : PortId) (byte : Byte) : (s.cachePort k byte).freeCount = s.freeCount := by
  simp only [State.cachePort]
@[simp] theorem State.bank_cachePort (s : State) (k : PortId) (byte : Byte) (b : BankId) : (s.cachePort k byte).bank b = s.bank b :=
  State.bank_congr (s.banks_cachePort k byte) b
@[simp] theorem State.att_cachePort (s : State) (k : PortId) (byte : Byte) (b : BankId) : (s.cachePort k byte).att b = s.att b :=
  State.att_congr (s.attached_cachePort k byte) b
@[simp] theorem State.port_cachePort (s : State) (k : PortId) (byte : Byte) (k' : PortId) : (s.cachePort k byte).port k' = s.port k' :=
  State.port_congr (s.ports_cachePort k byte) k'
@[simp] theorem State.addr_cachePort (s : State) (k : PortId) (byte : Byte) (x : Bus) : (s.cachePort k byte).addr x = s.addr x := by
  simp only [State.addr, State.addrP_cachePort, State.addrS_cachePort]

theorem State.pin_cachePort (s : State) (k : PortId) (byte : Byte) (p : PinId) :
    (s.cachePort k byte).pin p =
      if p.val / 8 = k.val ∧ isDigital (s.pin p).currentMode then
        { s.pin p with cachedValue := bitValue (byte.getLsbD (p.val % 8)) }
      else s.pin p := by
  simp [State.cachePort, State.pin]

/-- The frame after a run of writes that take each channel's bit from one assignment of bits (R176). -/
theorem writesFrame_getLsbD (g : ChanId → Level) (l : List Write) (sh : Frame) (c : ChanId) (hg : ∀ e ∈ l, e.2.2 = g e.2.1) :
    (writesFrame l sh).getLsbD c.val = if c ∈ l.map (fun e => e.2.1) then g c else sh.getLsbD c.val := by
  induction l generalizing sh with
  | nil => rfl
  | cons e l ih =>
    obtain ⟨b, d, v⟩ := e
    rw [writesFrame, ih _ (fun e he => hg e (by simp [he]))]
    have hv : v = g d := hg (b, d, v) (by simp)
    by_cases h1 : c ∈ l.map (fun e => e.2.1)
    · rw [if_pos h1, if_pos (by rw [List.map_cons]; exact List.mem_cons_of_mem _ h1)]
    · by_cases h2 : c = d
      · subst h2
        rw [if_neg h1, setBit_getLsbD, if_pos (by simp)]
        simp [hv]
      · have h3 : ¬ c.val = d.val := fun e => h2 (Fin.ext e)
        rw [if_neg h1, setBit_getLsbD, if_neg h3, if_neg (by rw [List.map_cons, List.mem_cons]; exact fun h => h.elim h2 h1)]

/-- The writes of `WRPORT`: one for each DigitalOut pin of the port, with its bit of the byte (R176). -/
theorem State.mem_portWrites (s : State) (P : Params) (k : PortId) (byte : Byte) (e : Write) :
    e ∈ s.portWrites P k byte ↔
      ∃ i : Fin 8, (s.pin (portPin k i)).currentMode = .digitalOut ∧
        e = (bankOf P (portPin k i), chanOf P (portPin k i), byte.getLsbD i.val) := by
  simp only [State.portWrites, List.mem_filterMap, List.mem_finRange, true_and, Option.ite_none_right_eq_some, Option.some.injEq]
  exact ⟨fun ⟨i, h, e⟩ => ⟨i, h, e.symm⟩, fun ⟨i, h, e⟩ => ⟨i, h, e.symm⟩⟩

/-- The writes of `WRPORT` on this hardware go to the port's bank and channels (R63, R176). -/
theorem State.mem_portWrites_hw (s : State) (k : PortId) (byte : Byte) (e : Write) :
    e ∈ s.portWrites Config.hw k byte ↔
      ∃ i : Fin 8, (s.pin (portPin k i)).currentMode = .digitalOut ∧ e = (portBank k, portChan k i, byte.getLsbD i.val) := by
  simp only [State.mem_portWrites, bankOf_portPin, chanOf_portPin]

/-! ### `WRPIN` and `SETMODE` -/

/-- The pins of this hardware that accept DigitalOut only are pins 80 to 95 (R27). -/
theorem allowed_digitalOut (p : PinId) : isOnlyDigitalOut (Config.allowed p) = decide (80 ≤ p.val) := by
  revert p; decide +kernel

/-- The `WRPIN` algorithm: the cache and one `WRCH` on an output pin, nothing on any other (R177). -/
theorem State.pinWrite_spec (s : State) (P : Params) (p : PinId) (v : Level) :
    s.pinWrite P p v =
      if isOnlyDigitalOut (P.allowed p) = true ∧ (s.pin p).currentMode = .digitalOut then
        (s.setCache p (bitValue v)).wrch P (bankOf P p) (chanOf P p) v
      else s := by
  unfold State.pinWrite
  by_cases h1 : isOnlyDigitalOut (P.allowed p) = true <;> by_cases h2 : (s.pin p).currentMode = .digitalOut <;> simp [h1, h2]

/-- The `WRPIN` algorithm on this hardware acts on pins 80 to 95 (R27, R177). -/
theorem State.pinWrite_hw (s : State) (p : PinId) (v : Level) :
    s.pinWrite Config.hw p v =
      if 80 ≤ p.val ∧ (s.pin p).currentMode = .digitalOut then
        (s.setCache p (bitValue v)).wrch Config.hw (bankOf Config.hw p) (chanOf Config.hw p) v
      else s := by
  simp only [State.pinWrite_spec, hw_allowed, allowed_digitalOut, decide_eq_true_eq]

/-! ### `SAMPD` and `SAMPA` -/

/-- The byte of the next eight samples, polarity corrected and masked (R178). -/
def State.portSample (s : State) (k : PortId) : Byte :=
  byteOfBits ((List.range 8).map fun n => !s.sampleAt n) &&& (s.port k).inputMask

/-- The state after the eight reads of a port (R178). -/
def State.portRead (s : State) (P : Params) (k : PortId) : State :=
  { s.addressed P (portBank k) (portChan k 7) with
    trace := s.trace ++ portReadSteps P k
    dataIn := s.dataIn.drop 8
    freeCount := s.freeCount + (8 - s.dataIn.length) }

/-- `SAMPD` of a valid port (R178). -/
theorem State.sampd_spec (s : State) (P : Params) (k : PortId) (force : Bool) :
    s.sampd P k force =
      if (s.port k).reportEnabled then
        if reportsDigital (s.portSample k) (s.port k).previousSentValue force then
          ((s.portRead P k).emitDigital k (s.portSample k)).setPort k { s.port k with previousSentValue := s.portSample k }
        else s.portRead P k
      else s := by
  unfold State.sampd
  rw [State.rddAll_port]
  rfl

/-- `SAMPA` of an analog pin (R179). -/
theorem State.sampa_spec (s : State) (P : Params) (c : ChanId) :
    s.sampa P c =
      let t : State := { s.addressed P analogBank c with
        trace := s.trace ++ rdaSteps P analogBank c
        adcIn := s.adcIn.drop 1
        freeCount := s.freeCount + (1 - s.adcIn.length) }
      if reportsAnalog (s.asampleValue P) then (t.setCache (analogPin c) (s.asampleValue P)).emitAnalog (analogPin c) (s.asampleValue P)
      else t.setCache (analogPin c) (s.asampleValue P) := by
  simp only [State.sampa, State.rda_spec]

end Sys2Proof.Machine
end

