-- ==== Sys2Proof/Machine/Assembler.lean ====
section
/-! DEFINITION. The assembler syntax of a command (spec 30_encoding.md R93, R100, R101). -/

namespace Sys2Proof.Machine

/-- The mnemonic of an opcode (R94). -/
def mnemonic : Opcode → String
  | .cfg => "CFG"
  | .wrch => "WRCH"
  | .rdd => "RDD"
  | .rda => "RDA"
  | .qbank => "QBANK"
  | .reset => "RESET"
  | .setmode => "SETMODE"
  | .wrport => "WRPORT"
  | .wrpin => "WRPIN"
  | .sampd => "SAMPD"
  | .sampa => "SAMPA"
  | .repd => "REPD"
  | .repa => "REPA"
  | .qpin => "QPIN"
  | .qport => "QPORT"

/-- The source's operation names, accepted as aliases (R101). -/
def sourceNames : List (String × Opcode) :=
  [("configure", .cfg), ("writeChannel", .wrch), ("readDigital", .rdd), ("readAnalog", .rda), ("reset", .reset),
   ("setPinMode", .setmode), ("writePort", .wrport), ("writePin", .wrpin), ("sampleAndReportDigital", .sampd),
   ("sampleAnalog", .sampa)]

/-- The opcode a name stands for: a mnemonic or an alias (R100, R101). -/
def opcodeNamed (name : String) : Option Opcode :=
  match opcodes.find? (fun o => mnemonic o == name) with
  | some o => some o
  | none => (sourceNames.find? (fun a => a.1 == name)).map Prod.snd

/-- The names of the mode codes (R93). -/
def modeNames : List (String × Nat) := [("DIS", 0), ("AIN", 1), ("DIN", 2), ("DINP", 3), ("DOUT", 4)]

/-- A written operand: a number, or for a mode operand a name (R100). -/
inductive AsmOperand where
  | number (n : Nat)
  | modeName (name : String)
  deriving DecidableEq, Repr

/-- How many operands an opcode uses (R94, R100). -/
def operandCount : Opcode → Nat
  | .wrch => 3
  | .cfg | .rdd | .rda | .setmode | .wrport | .wrpin | .sampd | .repd | .repa => 2
  | .qbank | .sampa | .qpin | .qport => 1
  | .reset => 0

/-- The opcode's second operand is a mode code (R94). -/
def takesMode (o : Opcode) : Bool := o == .cfg || o == .setmode

/-- The value of a number operand, 0 to 255 (R100). -/
def numberValue : AsmOperand → Option Byte
  | .number n => if n < 256 then some (BitVec.ofNat 8 n) else none
  | .modeName _ => none

/-- The value of a second operand: a number, or a mode name where the opcode takes a mode (R100). -/
def secondValue (o : Opcode) : AsmOperand → Option Byte
  | .number n => numberValue (.number n)
  | .modeName name =>
    if takesMode o then ((modeNames.find? (fun m => m.1 == name)).map fun m => BitVec.ofNat 8 m.2) else none

/-- The word of a written command; unused operands are omitted and assemble to 0 (R100). -/
def assemble (name : String) (operands : List AsmOperand) : Option CmdWord :=
  match opcodeNamed name with
  | none => none
  | some o =>
    if operands.length = operandCount o then
      match operands with
      | [] => some (mkWord o.code 0 0 0)
      | [a] => (numberValue a).map fun a => mkWord o.code a 0 0
      | [a, b] =>
        match numberValue a, secondValue o b with
        | some a, some b => some (mkWord o.code a b 0)
        | _, _ => none
      | a :: b :: c :: _ =>
        match numberValue a, secondValue o b, numberValue c with
        | some a, some b, some c => some (mkWord o.code a b c)
        | _, _, _ => none
    else none

end Sys2Proof.Machine
end

