-- ==== Sys2Proof/Tests/Slice0.lean ====
section
/-! SUPPORT. Tests: the expected words and values are those of spec/ (30_encoding.md R100; 95_test_vectors.md, vectors E, B, S and
properties T; 40_bank_driver.md R136; 10_state.md R38, R40), and one witness for each statement that has hypotheses. -/

namespace Sys2Proof.Tests

open Sys2Proof.Machine

/-- One field of the state after a command. -/
def after {α : Type} (i : Instr) (s : State) (f : State → α) : Option α :=
  match exec i s with
  | .next t => some (f t)
  | .fault _ => none
  | .refused _ => none

/-- One field of the state after a command on a hardware with other parameters. -/
def afterWith {α : Type} (P : Params) (i : Instr) (s : State) (f : State → α) : Option α :=
  match execWith P i s with
  | .next t => some (f t)
  | .fault _ => none
  | .refused _ => none

/-- This hardware with `AW` = 10, the width of the test vectors (R8). -/
def hw10 : Params := { Config.hw with awMinusOne := 9 }

/-- One field of the state after a presented word has run from a state. -/
def afterWord {α : Type} (w : Nat) (s : State) (f : State → α) : Option α :=
  match step (s.withFetchWord 32 w) with
  | .next t => some (f t)
  | .fault _ => none
  | .refused _ => none

/-- The state after reset with a shadow and an attached bank 6 of given contents. -/
def withBank6 (sh : Frame) : State :=
  (State.reset.setBank 5 { State.reset.bank 5 with shadow := sh }).setAtt 5 { sr := sh, q := sh }

/-- The state after reset with the given next samples. -/
def withSamples (l : List Level) : State := { State.reset with dataIn := l }

/-- The state after reset with the given next raw conversions. -/
def withConversions (l : List (BitVec 16)) : State := { State.reset with adcIn := l }

/-! ### Well-formedness: one ill-formed term for each check (R90, R91) -/

theorem test_illFormed_cfg : (Instr.cfg 256 0).wellFormed = false ∧ (Instr.cfg 0 256).wellFormed = false := by decide
theorem test_illFormed_wrch :
    (Instr.wrch 256 0 0).wellFormed = false ∧ (Instr.wrch 0 256 0).wellFormed = false ∧ (Instr.wrch 0 0 256).wellFormed = false := by
  decide
theorem test_illFormed_rdd : (Instr.rdd 256 0).wellFormed = false ∧ (Instr.rdd 0 256).wellFormed = false := by decide
theorem test_illFormed_rda : (Instr.rda 256 0).wellFormed = false ∧ (Instr.rda 0 256).wellFormed = false := by decide
theorem test_illFormed_qbank : (Instr.qbank 256).wellFormed = false := by decide
theorem test_wellFormed_reset : Instr.reset.wellFormed = true := by decide
theorem test_illFormed_setmode : (Instr.setmode 256 0).wellFormed = false ∧ (Instr.setmode 0 256).wellFormed = false := by decide
theorem test_illFormed_wrport : (Instr.wrport 256 0).wellFormed = false := by decide
theorem test_illFormed_wrpin : (Instr.wrpin 256 0).wellFormed = false ∧ (Instr.wrpin 0 256).wellFormed = false := by decide
theorem test_illFormed_sampd : (Instr.sampd 256 0).wellFormed = false ∧ (Instr.sampd 0 256).wellFormed = false := by decide
theorem test_illFormed_sampa : (Instr.sampa 256).wellFormed = false := by decide
theorem test_illFormed_repd : (Instr.repd 256 0).wellFormed = false ∧ (Instr.repd 0 256).wellFormed = false := by decide
theorem test_illFormed_repa : (Instr.repa 256 0).wellFormed = false ∧ (Instr.repa 0 256).wellFormed = false := by decide
theorem test_illFormed_qpin : (Instr.qpin 256).wellFormed = false := by decide
theorem test_illFormed_qport : (Instr.qport 256).wellFormed = false := by decide

/-! ### Decoding: words written out in spec/ or from its field layout (R90, R94, R100; vectors E, B, S) -/

theorem test_decode_cfg : decode 0x10020300 = .ok (.cfg 2 3) := by rfl
theorem test_decode_wrch : decode 0x11060501 = .ok (.wrch 6 5 1) := by rfl
theorem test_decode_rdd : decode 0x12020C7E = .ok (.rdd 2 12) := by rfl
theorem test_decode_rda : decode 0x1301C800 = .ok (.rda 1 200) := by rfl
theorem test_decode_qbank : decode 0x14061234 = .ok (.qbank 6) := by rfl
theorem test_decode_reset : decode 0x200000FF = .ok .reset := by rfl
theorem test_decode_setmode : decode 0x21FFC800 = .ok (.setmode 255 200) := by rfl
theorem test_decode_wrport : decode 0x220AA500 = .ok (.wrport 10 0xA5) := by rfl
theorem test_decode_wrpin : decode 0x23550700 = .ok (.wrpin 85 7) := by rfl
theorem test_decode_sampd : decode 0x24020100 = .ok (.sampd 2 1) := by rfl
theorem test_decode_sampa : decode 0x250F0000 = .ok (.sampa 15) := by rfl
theorem test_decode_repd : decode 0x260A0100 = .ok (.repd 10 1) := by rfl
theorem test_decode_repa : decode 0x27C80100 = .ok (.repa 200 1) := by rfl
theorem test_decode_qpin : decode 0x28600000 = .ok (.qpin 96) := by rfl
theorem test_decode_qport : decode 0x290C0000 = .ok (.qport 12) := by rfl

theorem test_decode_reserved :
    decode 0x00000000 = .error (.reservedOpcode 0x00) ∧ decode 0x15000000 = .error (.reservedOpcode 0x15) ∧
      decode 0x2A000000 = .error (.reservedOpcode 0x2A) ∧ decode 0xFFFFFFFF = .error (.reservedOpcode 0xFF) := by
  refine ⟨?_, ?_, ?_, ?_⟩ <;> rfl

theorem test_encode : encode (.wrch 6 5 1) = 0x11060501 ∧ encode (.setmode 20 2) = 0x21140200 ∧ encode .reset = 0x20000000 := by
  decide

/-- The assembled examples of R100, and the alias of R101. -/
theorem test_assemble :
    assemble "WRCH" [.number 6, .number 5, .number 1] = some 0x11060501 ∧
      assemble "SETMODE" [.number 20, .modeName "DIN"] = some 0x21140200 ∧ assemble "RESET" [] = some 0x20000000 ∧
      assemble "sampleAndReportDigital" [.number 2, .number 0] = some 0x24020000 := by decide +kernel

/-! ### The state after reset (R38, R40) -/

/-- The architectural width check of R40. -/
theorem test_width : 6 * (3 + 16 + 1) + 96 * (3 + 16) + 12 * (1 + 8 + 8) + 16 + 8 + 12 = 2184 := by decide

theorem test_reset_banks :
    (List.finRange 6).map (fun b => (State.reset.bank b).mode) =
      [.analogIn, .digitalIn, .digitalIn, .digitalIn, .digitalIn, .digitalOut] := by decide

theorem test_reset_ports :
    (State.reset.port 9).inputMask = 0xFF ∧ (State.reset.port 9).reportEnabled = true ∧
      (State.reset.port 10).inputMask = 0 ∧ (State.reset.port 10).reportEnabled = false := by decide +kernel

/-! ### Bank Driver commands (vectors B) -/

/-- B1. -/
theorem test_cfg : after (.cfg 2 3) State.reset (fun t => ((t.bank 1).mode, t.dataPu 1, t.dataDir 1, t.sel 1)) =
    some (.digitalInPullup, true, false, some false) := by decide +kernel

/-- B2, B7, B8. -/
theorem test_cfg_rejected :
    after (.cfg 2 1) State.reset (fun t => (t.bank 1).mode) = some .digitalIn ∧
      after (.cfg 7 2) State.reset (fun t => t.trace) = some [] ∧ after (.cfg 2 255) State.reset (fun t => t.trace) = some [] := by
  decide +kernel

/-- B9: the shadow, the flag, the shift stage, the latched frame and the 54 steps. -/
theorem test_wrch :
    after (.wrch 6 5 1) (withBank6 0) (fun t => (t.bank 5, (t.att 5).sr, (t.att 5).q, t.addrS, t.trace.length)) =
      some ({ mode := .digitalOut, shadow := 0x0020, outMode := false, dataOut := false, sclk := false },
        0x0020, 0x0020, 0, 54) := by decide +kernel

/-- B10, B12: the last bit shifted stays on `DATA_OUT`, and 255 counts as 1. -/
theorem test_wrch_255 :
    after (.wrch 6 0 255) (withBank6 0x8000) (fun t => ((t.bank 5).shadow, (t.bank 5).dataOut, (t.att 5).q)) =
      some (0x8001, true, 0x8001) := by decide +kernel

/-- B17: the address is presented and the low level reads as 1. -/
theorem test_rdd : after (.rdd 2 4) (withSamples [false]) (fun t => (t.addrP, t.addrS, t.rsp, t.dataIn)) =
    some (0b0100, 0, [0x000000001], []) := by decide +kernel

/-- T2: a read at channel 9 of bank 4 makes a latch edge that gives bank 6 the frame it holds. -/
theorem test_rdd_edge :
    after (.rdd 4 9) (withBank6 0x0020) (fun t => (t.addrS, (t.att 5).q, (t.bank 5).shadow)) = some (0b1001, 0x0020, 0x0020) := by
  decide +kernel

theorem one_lt_two_pow_AW : 1 < 2 ^ Config.AW := Nat.one_lt_two_pow (by simp [Config.AW, Params.AW])

/-- A raw conversion of 1 fits every width of `AW`. -/
theorem test_asample_one (s : State) (rest : List (BitVec 16)) (h : s.adcIn = 1 :: rest) : s.asampleValue Config.hw = 1 := by
  have hlt : 1 < 2 ^ Config.hw.AW := one_lt_two_pow_AW
  simp [State.asampleValue, h, Nat.mod_eq_of_lt hlt]

/-- B23 with a conversion that fits every `AW`. -/
theorem test_rda : after (.rda 1 3) (withConversions [1]) (fun t => (t.addrP, t.rsp)) = some (0b0011, [0x000000001]) := by
  have h := test_asample_one (withConversions [1]) [] rfl
  simp only [after, exec, execRda, execRdaWith]
  rw [show bankOperand 1 = some 0 from rfl, show chanOperand 3 = some 3 from rfl]
  simp only [State.rda_spec, h]
  rfl

/-- B23 and B27, with `AW` = 10. -/
theorem test_rda_ten_bits :
    afterWith hw10 (.rda 1 3) (withConversions [0x200]) (fun t => (t.addrP, t.rsp)) = some (0b0011, [0x000000200]) ∧
      after (.rda 9 0) State.reset (fun t => (t.rsp, t.trace)) = some ([0x1FFFFFFFF], []) := by decide +kernel

/-- B28, B30. -/
theorem test_qbank :
    after (.qbank 1) State.reset (fun t => t.rsp) = some [0x000010000] ∧
      after (.qbank 6) (withBank6 0x0020) (fun t => t.rsp) = some [0x000040020] ∧
      after (.qbank 7) State.reset (fun t => t.rsp) = some [0x1FFFFFFFF] := by decide +kernel

/-- R122 and conflict C10: with DigitalOut in the capability of bank 2, `CFG 2, DOUT` selects the write circuit. -/
theorem test_sel_high :
    afterWith { Config.hw with bankCap := fun _ => [.digitalOut] } (.cfg 2 4) State.reset
      (fun t => (t.sel 1, t.dataDir 1, t.writeCircuitActive Config.hw 1)) =
      some (some true, true, true) := by decide +kernel

/-- U3, R247: after `CFG 6, DIS` the mode is not the jumper's, and the outputs of bank 6 are any value. -/
theorem test_jumper_mismatch :
    after (.cfg 6 0) State.reset (fun t => ((t.bank 5).mode, t.jumperMatches Config.hw 5, t.channelOutput Config.hw 5 3)) =
      some (.disabled, false, .anyValue) ∧
    after (.cfg 4 3) State.reset (fun t => (t.channelOutput Config.hw 3 0, t.presentsChannel Config.hw 3 0)) =
      some (.anyValue, false) ∧
    State.reset.channelOutput Config.hw 3 0 = .notDriven ∧ State.reset.presentsChannel Config.hw 3 0 = true := by decide +kernel

/-! ### Pin/Port State Machine commands (vectors S) -/

/-- S40: `RESET` with bank 3 pulled up. -/
theorem test_reset_pullup :
    after .reset (State.reset.setBank 2 { State.reset.bank 2 with mode := .digitalInPullup })
      (fun t => (t.pin 40, (t.port 4).inputMask)) =
      some ({ currentMode := .digitalInPullup, cachedValue := 1 }, 0xFF) := by decide +kernel

/-- S41: the pins go by index, the ports by the bank's mode. -/
theorem test_reset_disabled :
    after .reset (State.reset.setBank 5 { State.reset.bank 5 with mode := .disabled })
      (fun t => (t.pin 80, (t.port 10).reportEnabled)) =
      some ({ currentMode := .digitalOut, cachedValue := 0 }, false) := by decide +kernel

/-- S4. -/
theorem test_setmode :
    after (.setmode 20 3) State.reset (fun t => (t.pin 20, (t.port 2).inputMask, (t.bank 1).mode, t.dataPu 1)) =
      some ({ currentMode := .digitalInPullup, cachedValue := 1 }, 0xFF, .digitalInPullup, true) := by decide +kernel

/-- S7, S8: a known mode leaves the cache, a raw code clears it. -/
theorem test_setmode_rejected :
    after (.setmode 20 4) (State.reset.setCache 20 1) (fun t => (t.pin 20).cachedValue) = some 1 ∧
      after (.setmode 20 9) (State.reset.setCache 20 1) (fun t => t.pin 20) =
        some { currentMode := .digitalIn, cachedValue := 0 } := by decide +kernel

/-- S12: exclusion, a different parameter value, comes before the code. -/
theorem test_setmode_excluded :
    afterWith { Config.hw with excl := fun p => p == 20 } (.setmode 20 9) (State.reset.setCache 20 1)
      (fun t => ((t.pin 20).cachedValue, t.trace)) = some (1, []) := by decide +kernel

/-- S13. -/
theorem test_wrport :
    after (.wrport 10 0xA5) (withBank6 0) (fun t => ((t.bank 5).shadow, (t.att 5).q, t.trace.length)) =
      some (0x00A5, 0x00A5, 432) ∧
    after (.wrport 10 0xA5) State.reset (fun t => (List.finRange 8).map fun i => (t.pin (portPin 10 i)).cachedValue) =
      some [1, 0, 1, 0, 0, 1, 0, 1] := by decide +kernel

/-- S15, S16. -/
theorem test_wrport_inputs :
    after (.wrport 2 0xFF) State.reset (fun t => ((t.pin 16).cachedValue, (t.pin 24).cachedValue, t.trace)) = some (1, 0, []) ∧
      after (.wrport 0 0xFF) State.reset (fun t => (t.pin 0).cachedValue) = some 0 := by decide +kernel

/-- S18, S19. -/
theorem test_wrpin :
    after (.wrpin 85 7) (withBank6 0) (fun t => ((t.pin 85).cachedValue, (t.bank 5).shadow, (t.att 5).q, t.trace.length)) =
      some (1, 0x0020, 0x0020, 54) := by decide +kernel

/-- S22. -/
theorem test_wrpin_input : after (.wrpin 20 1) State.reset (fun t => ((t.pin 20).cachedValue, t.trace)) = some (0, []) := by
  decide +kernel

/-- P2 step 2: the byte with bit 4 set is emitted and recorded. -/
theorem test_sampd :
    after (.sampd 2 0) (withSamples [true, true, true, true, false, true, true, true])
      (fun t => (t.evt, (t.port 2).previousSentValue, t.addrP, t.trace.length)) =
      some ([0x0020010], 0x10, 0b0111, 24) := by decide +kernel

/-- S23, S24: an unchanged byte is reported only when forced. -/
theorem test_sampd_suppressed :
    after (.sampd 2 0) (withSamples (List.replicate 8 true)) (fun t => t.evt) = some [] ∧
      after (.sampd 2 1) (withSamples (List.replicate 8 true)) (fun t => t.evt) = some [0x0020000] := by decide +kernel

/-- S31 with a conversion that fits every `AW`. -/
theorem test_sampa :
    after (.sampa 3) (withConversions [1]) (fun t => (t.addrP, (t.pin 3).cachedValue, t.evt)) = some (0b0011, 1, [0x1030001]) := by
  have h := test_asample_one (withConversions [1]) [] rfl
  simp only [after, exec, execSampa, execSampaWith]
  rw [show analogPinOperand 3 = some 3 from rfl]
  simp only [State.sampa_spec, h]
  decide +kernel

/-- S31 with `AW` = 10. -/
theorem test_sampa_ten_bits :
    afterWith hw10 (.sampa 3) (withConversions [0x200]) (fun t => (t.addrP, (t.pin 3).cachedValue, t.evt)) =
      some (0b0011, 0x200, [0x1030200]) := by decide +kernel

/-- S33: a zero sample is cached and not reported. -/
theorem test_sampa_zero :
    after (.sampa 3) ((withConversions [0]).setCache 3 0x200) (fun t => ((t.pin 3).cachedValue, t.evt)) = some (0, []) := by
  have h : ((withConversions [0]).setCache 3 0x200).asampleValue Config.hw = 0 := by simp [State.asampleValue, withConversions, State.setCache]
  simp only [after, exec, execSampa, execSampaWith]
  rw [show analogPinOperand 3 = some 3 from rfl]
  simp only [State.sampa_spec, h]
  decide +kernel

/-- S28, S29. -/
theorem test_repd :
    after (.repd 10 1) State.reset (fun t => (t.port 10).reportEnabled) = some true ∧
      after (.repd 2 0) State.reset (fun t => (t.port 2).reportEnabled) = some false := by decide +kernel

/-- S36, S38. -/
theorem test_repa :
    after (.repa 3 1) State.reset (fun t => t.analogReport) = some 0x0008 ∧
      after (.repa 16 1) State.reset (fun t => t.analogReport) = some 0 := by decide +kernel

/-- S36, S3. -/
theorem test_qpin :
    after (.qpin 3) { State.reset with analogReport := 0x0008 } (fun t => t.rsp) = some [0x000110000] ∧
      after (.qpin 96) State.reset (fun t => t.rsp) = some [0x1FFFFFFFF] := by decide +kernel

/-- S2. -/
theorem test_qport :
    after (.qport 2) State.reset (fun t => t.rsp) = some [0x00001FF00] ∧
      after (.qport 10) State.reset (fun t => t.rsp) = some [0x000000000] := by decide +kernel

/-! ### One step (R95, R99, R263) -/

theorem test_step_qpin : afterWord 0x28550000 State.reset (fun t => (t.rsp, t.done, t.cmdReady, t.input)) =
    some ([0x000040000], true, true, []) := by decide +kernel

theorem test_step_reserved : afterWord 0x00000000 State.reset (fun t => (t.rsp, t.evt, t.trace, t.done)) =
    some ([], [], [], true) := by decide +kernel

/-- `RST` before the latch edge leaves the output frame, `RST` after it leaves the new one; nothing completes. -/
theorem test_step_cut :
    (match step { withBank6 0x0001 with input := [.commandCut 0x11060501 51] } with
      | .next t => some ((t.att 5).q, (t.bank 5).shadow, t.done, t.trace.length)
      | _ => none) = some (0x0001, 0, false, 51) ∧
    (match step { withBank6 0x0001 with input := [.commandCut 0x11060501 52] } with
      | .next t => some ((t.att 5).q, (t.bank 5).shadow, t.done, t.trace.length)
      | _ => none) = some (0x0021, 0, false, 52) := by decide +kernel

/-! ### Witnesses: a concrete state and operands that meet the hypotheses of each statement, one for each clause at a boundary value -/

/-- The state after reset with `RST` asserted next. -/
def atRst : State := { State.reset with input := [.rst] }

/-- The state after reset with a word presented next that `RST` cuts after `n` line steps. -/
def atCut (w : CmdWord) (n : Nat) : State := { State.reset with input := [.commandCut w n] }

/-- The state after reset with a word presented next. -/
def atWord (w : Nat) : State := State.reset.withFetchWord 32 w

theorem witness_DecodeOfEncodeIsIdentity :
    (Instr.wrch 255 255 255).wellFormed = true ∧ (Instr.cfg 0 0).wellFormed = true ∧ (Instr.wrport 255 0xFF).wellFormed = true ∧
      Instr.reset.wellFormed = true := by decide

theorem witness_StepRunsDecodedCommand :
    (atWord 0x28550000).cmdReady = true ∧ (atWord 0x28550000).input = .command 0x28550000 :: [] ∧
      decode 0x28550000 = .ok (.qpin 85) := ⟨rfl, rfl, rfl⟩

theorem witness_EveryCommandCompletes :
    (atWord 0xFF000000).cmdReady = true ∧ (atWord 0xFF000000).input = .command 0xFF000000 :: [] := ⟨rfl, rfl⟩

theorem witness_ReservedOpcodeCompletesAsNoOp :
    (atWord 0x0F000000).cmdReady = true ∧ (atWord 0x0F000000).input = .command 0x0F000000 :: [] ∧
      decode 0x0F000000 = .error (.reservedOpcode 0x0F) ∧ decode 0x15000000 = .error (.reservedOpcode 0x15) ∧
      decode 0x1F000000 = .error (.reservedOpcode 0x1F) ∧ decode 0x2A000000 = .error (.reservedOpcode 0x2A) ∧
      decode 0xFF000000 = .error (.reservedOpcode 0xFF) ∧ decode 0x10000000 = .ok (.cfg 0 0) ∧
      decode 0x14000000 = .ok (.qbank 0) ∧ decode 0x29000000 = .ok (.qport 0) :=
  ⟨rfl, rfl, rfl, rfl, rfl, rfl, rfl, rfl, rfl, rfl⟩

theorem witness_BlockWaitsWithoutAcceptedCommand :
    State.reset.input = [] ∧
      ({ atWord 0x20000000 with cmdReady := false } : State).cmdReady = false ∧
      ({ atWord 0x20000000 with cmdReady := false } : State).input = .command 0x20000000 :: [] := ⟨rfl, rfl, rfl⟩

theorem witness_PowerOnSequenceGivesResetState : atRst.input = .rst :: [] := rfl

theorem witness_RstAbandonsCommand :
    (atCut 0x11060501 0).cmdReady = true ∧ (atCut 0x11060501 0).input = .commandCut 0x11060501 0 :: [] ∧
      decode 0x11060501 = .ok (.wrch 6 5 1) ∧ (atCut 0xFF000000 54).input = .commandCut 0xFF000000 54 :: [] ∧
      (∀ i, decode 0xFF000000 ≠ .ok i) := ⟨rfl, rfl, rfl, rfl, fun _ h => nomatch h⟩

theorem witness_RstDuringWriteKeepsOrCommitsFrame :
    (atCut 0x11060501 51).cmdReady = true ∧ (atCut 0x11060501 51).input = .commandCut 0x11060501 51 :: [] ∧
      (atCut 0x11060501 52).input = .commandCut 0x11060501 52 :: [] ∧
      decode 0x11060501 = .ok (.wrch (bankNumber 5) (5 : ChanId).val 1) ∧
      ((atCut 0x11060501 51).bank 5).sclk = false ∧ ((atCut 0x11060501 51).bank 5).mode = .digitalOut :=
  ⟨rfl, rfl, rfl, rfl, rfl, rfl⟩

/-- No bank's capability holds the mode. -/
def noCapability (bank mode : Nat) : Prop :=
  ∀ (b : BankId) (m : Mode), bank = bankNumber b → mode = (modeCode m).toNat → m ∉ Config.bankCap b

theorem witness_CfgWritesModeWithinCapability :
    Mode.analogIn ∈ Config.bankCap 0 ∧ Mode.digitalOut ∈ Config.bankCap 5 ∧ noCapability 0 0 ∧ noCapability 7 0 ∧ noCapability 2 1 ∧
      noCapability 6 5 := by
  refine ⟨by decide, by decide, ?_, ?_, ?_, ?_⟩ <;> intro b m <;> revert b <;> cases m <;> decide

/-- The invariant holds in a state that is not the reset state: a word is presented and an output is high. -/
theorem witness_invariant (w : Nat) : Inv ((State.reset.setCache 85 1).withFetchWord 32 w) := by
  have hpos : 0 < 2 ^ Config.AW := Nat.lt_trans (by decide) one_lt_two_pow_AW
  have hzero : ∀ p : PinId, p.val ≤ 15 → ((State.reset.setCache 85 1).pin p).cachedValue = 0 := by decide +kernel
  refine ⟨?_, ?_, ?_, ?_, ?_, ?_, ?_, rfl⟩
  · show ∀ b, ((State.reset.setCache 85 1).bank b).outMode = false
    decide +kernel
  · show ∀ b, ((State.reset.setCache 85 1).bank b).sclk = false
    decide +kernel
  · show ∀ b, ((State.reset.setCache 85 1).bank b).mode ∈ Config.bankCap b
    decide +kernel
  · show ∀ p, ((State.reset.setCache 85 1).pin p).currentMode ∈ Config.allowed p
    decide +kernel
  · show ∀ k : PortId, ¬(2 ≤ k.val ∧ k.val ≤ 9) → ((State.reset.setCache 85 1).port k).inputMask = 0
    decide +kernel
  · show ∀ p : PinId, 16 ≤ p.val → ((State.reset.setCache 85 1).pin p).cachedValue.toNat ≤ 1
    decide +kernel
  · intro p hp
    show ((State.reset.setCache 85 1).pin p).cachedValue.toNat < _
    rw [hzero p hp]
    exact hpos

theorem witness_ModeDrivesSelectDirectionAndPullup : Inv ((State.reset.setCache 85 1).withFetchWord 32 0) := witness_invariant 0

theorem witness_WrchShiftsAndCommitsFrame :
    (State.reset.bank 5).sclk = false ∧ (State.reset.bank 5).mode = .digitalOut ∧ (State.reset.bank 1).sclk = false ∧
      (State.reset.bank 1).mode = .digitalIn ∧ ((0 = 0 ∨ 6 < 0 ∨ 15 < 15) ∧ (7 = 0 ∨ 6 < 7 ∨ 15 < 0) ∧ (6 = 0 ∨ 6 < 6 ∨ 15 < 16)) := by
  decide

theorem witness_RddRespondsWithInvertedSample : (0 = 0 ∨ 6 < 0 ∨ 15 < 0) ∧ (7 = 0 ∨ 6 < 7 ∨ 15 < 0) ∧ (2 = 0 ∨ 6 < 2 ∨ 15 < 16) := by
  decide

theorem witness_RdaRespondsWithRawSample : (0 = 0 ∨ 6 < 0 ∨ 15 < 0) ∧ (9 = 0 ∨ 6 < 9 ∨ 15 < 0) ∧ (1 = 0 ∨ 6 < 1 ∨ 15 < 200) := by
  decide

theorem witness_QbankRespondsWithBankRecord : (0 = 0 ∨ 6 < 0) ∧ (7 = 0 ∨ 6 < 7) := by decide

/-- A `WRCH` and a `CFG` on bank 6: one operation for each of the two clauses on the bank itself, and one on each bus. -/
theorem witness_BankOperationIsConfinedToItsBankAndBus :
    ((∃ x y, Instr.wrch 6 15 1 = .wrch (bankNumber 5) x y) ∧ (∀ m, Instr.wrch 6 15 1 ≠ .cfg (bankNumber 5) m) ∧
      ∃ t, exec (.wrch 6 15 1) State.reset = .next t) ∧
    ((∃ m, Instr.cfg 6 0 = .cfg (bankNumber 5) m) ∧ ∃ t, exec (.cfg 6 0) State.reset = .next t) ∧
    (4 : BankId) ≠ 5 ∧ busOf Config.hw 4 = busOf Config.hw 5 ∧ busOf Config.hw 0 ≠ busOf Config.hw 5 ∧
      Bus.primary ≠ busOf Config.hw 5 :=
  ⟨⟨⟨15, 1, rfl⟩, (fun _ h => nomatch h), _, rfl⟩, ⟨⟨0, rfl⟩, _, rfl⟩, by decide, by decide, by decide, by decide⟩

theorem witness_LineStepCounts :
    Mode.disabled ∈ Config.bankCap 0 ∧ Mode.digitalInPullup ∈ Config.bankCap 4 ∧ (7 = 0 ∨ 6 < 7 ∨ 15 < 0) ∧
      (6 = 0 ∨ 6 < 6 ∨ 15 < 16) ∧ noCapability 1 4 ∧ noCapability 6 5 := by
  refine ⟨by decide, by decide, by decide, by decide, ?_, ?_⟩ <;> intro b m <;> revert b <;> cases m <;> decide

theorem witness_CommandPerformsItsLineSteps : ∃ t, exec (.wrport 10 0xA5) State.reset = .next t := ⟨_, rfl⟩

theorem witness_ResetKeepsOutputsButClearsTheirCache : 80 ≤ (80 : PinId).val ∧ ¬ 80 ≤ (79 : PinId).val := by decide

theorem witness_SetmodeFollowsCapability :
    Mode.digitalInPullup ∈ Config.allowed 20 ∧ Mode.analogIn ∈ Config.allowed 15 ∧ Mode.digitalIn ∈ Config.allowed 79 ∧
      Mode.digitalOut ∈ Config.allowed 80 ∧ Mode.disabled ∉ Config.allowed 95 ∧ 5 ≤ 5 ∧ 95 < 96 ∧
      ({ Config.hw with excl := fun p => p == 0 } : Params).excl 0 = true := by decide

theorem witness_ExcludedPinIgnoresSetmode : ({ Config.hw with excl := fun p => p == 95 } : Params).excl 95 = true := rfl

theorem witness_SynthesizedHighHasNoEffect :
    Mode.digitalInPullup ∈ Config.hw.allowed 16 ∧ Mode.digitalInPullup ∈ Config.hw.allowed 79 := by decide

theorem witness_PullupIsPerBankWhilePinModesArePerPin :
    Mode.digitalInPullup ∈ Config.allowed 20 ∧ (21 : PinId) ≠ 20 ∧ bankOf Config.hw 21 = bankOf Config.hw 20 := by decide

theorem witness_WrportUpdatesCachesAndOutputs :
    (State.reset.bank (portBank 10)).sclk = false ∧ (State.reset.bank (portBank 10)).mode = .digitalOut ∧
      portIsOutput State.reset 10 0 = true ∧ (State.reset.bank (portBank 2)).sclk = false ∧
      (∀ i, portIsOutput State.reset 2 i = false) ∧ 11 < 12 := by decide +kernel

theorem witness_WrpinWritesOneOutputPin :
    80 ≤ (80 : PinId).val ∧ (State.reset.pin 80).currentMode = .digitalOut ∧ (State.reset.bank (bankOf Config.hw 80)).sclk = false ∧
      (State.reset.bank (bankOf Config.hw 80)).mode = .digitalOut ∧
      ((79 : PinId).val < 80 ∨ (State.reset.pin 79).currentMode ≠ .digitalOut) ∧ 95 < 96 := by decide +kernel

theorem witness_SampdReportsMaskedChanges :
    (State.reset.port 2).reportEnabled = true ∧ (State.reset.port 9).reportEnabled = true ∧
      (State.reset.port 1).reportEnabled = false ∧ (State.reset.port 10).reportEnabled = false ∧ 11 < 12 := by decide +kernel

theorem witness_StableInputIsReportedOnce :
    ((withSamples (List.replicate 16 false)).port 2).reportEnabled = true ∧
      ∀ i : Fin 8, (withSamples (List.replicate 16 false)).sampleAt i.val = (withSamples (List.replicate 16 false)).sampleAt (i.val + 8) := by
  decide +kernel

theorem witness_SampaCachesAndSuppressesZero : 15 < 16 := by decide
theorem witness_RepdWritesReportEnable : 11 < 12 := by decide
theorem witness_RepaWritesAnalogReportBit : 15 < 16 := by decide
theorem witness_QpinRespondsWithPinRecord : 95 < 96 := by decide
theorem witness_QportRespondsWithPortRecord : 11 < 12 := by decide

theorem witness_EveryStepKeepsBoundaryInvariant :
    Inv ((State.reset.setCache 85 1).withFetchWord 32 0x11060501) ∧
      ∃ t, step ((State.reset.setCache 85 1).withFetchWord 32 0x11060501) = .next t :=
  ⟨witness_invariant _, _, rfl⟩

/-- Bank 6 is driven and holds its frame, and the word writes another channel of it; the same state with a read on its bus. -/
theorem witness_SyncedBankStaysSynced :
    ((withBank6 0x0020).bank 5).sclk = false ∧ Synced (withBank6 0x0020) 5 ∧ ((withBank6 0x0020).withFetchWord 32 0x11060F01).cmdReady = true ∧
      ((withBank6 0x0020).withFetchWord 32 0x11060F01).input = .command 0x11060F01 :: [] ∧
      ((withBank6 0x0020).bank 5).mode = .digitalOut ∧
      (∃ t, step ((withBank6 0x0020).withFetchWord 32 0x11060F01) = .next t) ∧
      (∀ i, decode 0x12040900 = .ok i → mayWriteShadow i = false) :=
  ⟨rfl, ⟨rfl, rfl⟩, rfl, rfl, rfl, ⟨_, rfl⟩, fun _ h => by cases h; rfl⟩

theorem witness_DrivenWriteSyncsBank : (State.reset.bank 5).sclk = false ∧ (State.reset.bank 5).mode = .digitalOut := by decide

theorem witness_ResponsesAndEventsPerCommand :
    (atWord 0x24020100).cmdReady = true ∧ (atWord 0x24020100).input = .command 0x24020100 :: [] ∧
      decode 0x24020100 = .ok (.sampd 2 1) ∧ (∃ t, step (atWord 0x24020100) = .next t) ∧
      responds (.sampd 2 1) = false ∧ mayEmit (.sampd 2 1) = true ∧ responds (.qpin 0) = true := ⟨rfl, rfl, rfl, ⟨_, rfl⟩, rfl, rfl, rfl⟩

theorem witness_RecordsHaveOnlyTheirWriters :
    (∃ t, exec (.rdd 2 4) State.reset = .next t) ∧ mayWriteBankMode (.rdd 2 4) = false ∧ mayWriteShadow (.rdd 2 4) = false ∧
      mayWritePinMode (.rdd 2 4) = false ∧ mayWriteCache (.rdd 2 4) = false := ⟨⟨_, rfl⟩, rfl, rfl, rfl, rfl⟩

theorem witness_ParametersHaveTheirStatedValues : 3 < bankNumber 3 ∧ 3 < bankNumber 5 := by decide

theorem witness_BankInvariantHoldsForAnyParameters :
    (∀ b, hw10.bankModeInit b ∈ hw10.bankCap b) ∧
      (∀ b, ((atWord 0x11060501).bank b).outMode = false ∧ ((atWord 0x11060501).bank b).sclk = false ∧
        ((atWord 0x11060501).bank b).mode ∈ hw10.bankCap b) ∧
      ∃ t, stepWith hw10 (atWord 0x11060501) = .next t := ⟨by decide, by decide, _, rfl⟩

/-- A bank with a select line, a bank whose jumper matches and a bank whose jumper does not, at the boundary bank numbers 3 and 4. -/
theorem witness_OutputsFollowWriteCircuitUnlessJumperMismatch :
    bankNumber 2 ≤ 3 ∧ (3 < bankNumber 3 ∧ (State.reset.bank 3).mode = Config.hw.jumper 3) ∧
      (3 < bankNumber 5 ∧ ((State.reset.setBank 5 { State.reset.bank 5 with mode := .disabled }).bank 5).mode ≠ Config.hw.jumper 5) := by
  decide

end Sys2Proof.Tests
end

section
/-! PROOFS. The parameters of the machine: this hardware's values, the machine as the one of any parameters at these values, and what
every step keeps for any parameters (spec 00_scope.md R8; 10_state.md R27; 40_bank_driver.md R132; 42_pin_port_state_machine.md R185). -/

namespace Sys2Proof.Machine

/-! ### This hardware's tables, row by row (R8, R27) -/

theorem bankNumber_range (b : BankId) : 1 ≤ bankNumber b ∧ bankNumber b ≤ 6 := by unfold bankNumber; omega

theorem mem_bankCap_iff (b : BankId) (m : Mode) : m ∈ Config.bankCap b ↔
    m = .disabled ∨ (bankNumber b = 1 ∧ m = .analogIn) ∨
      (2 ≤ bankNumber b ∧ bankNumber b ≤ 5 ∧ (m = .digitalIn ∨ m = .digitalInPullup)) ∨ (bankNumber b = 6 ∧ m = .digitalOut) := by
  unfold Config.bankCap
  split
  next h => simp [h]
  next h => simp [h]
  next h1 h6 =>
    replace h1 : bankNumber b ≠ 1 := h1
    replace h6 : bankNumber b ≠ 6 := h6
    have hmiddle : 2 ≤ bankNumber b ∧ bankNumber b ≤ 5 := by have := bankNumber_range b; omega
    simp [h1, h6, hmiddle]

theorem mem_allowed_iff (p : PinId) (m : Mode) : m ∈ Config.allowed p ↔
    (p.val ≤ 15 ∧ m = .analogIn) ∨ (16 ≤ p.val ∧ p.val ≤ 79 ∧ (m = .digitalIn ∨ m = .digitalInPullup)) ∨
      (80 ≤ p.val ∧ m = .digitalOut) := by
  unfold Config.allowed
  split
  next h =>
    have h16 : ¬ 16 ≤ p.val := by omega
    have h80 : ¬ 80 ≤ p.val := by omega
    simp [h, h16, h80]
  next h15 =>
    have h16 : 16 ≤ p.val := by omega
    split
    next h =>
      have h80 : ¬ 80 ≤ p.val := by omega
      simp [h15, h16, h, h80]
    next h =>
      have h80 : 80 ≤ p.val := by omega
      simp [h15, h, h80]

theorem bankModeInit_eq (b : BankId) : Config.bankModeInit b =
    if bankNumber b = 1 then .analogIn else if bankNumber b = 6 then .digitalOut else .digitalIn := by
  unfold Config.bankModeInit
  split
  next h => simp [h]
  next h => simp [h]
  next h1 h6 => rw [if_neg h1, if_neg h6]

/-- Settles O44, from one lemma for each table. -/
theorem parametersHaveTheirStatedValues : Obligations.ParametersHaveTheirStatedValues := by
  refine ⟨fun p => ⟨rfl, rfl, rfl, rfl⟩, fun b => rfl, mem_bankCap_iff, mem_allowed_iff, bankModeInit_eq, hw_excl, fun b _ => rfl, ?_⟩
  exact paramsAW_range Config.hw

/-! ### The machine at this hardware's parameters -/

theorem exec_eq_execWith (i : Instr) (s : State) : exec i s = execWith Config.hw i s := by
  cases i <;> rfl

theorem step_eq_stepWith (s : State) : step s = stepWith Config.hw s := by
  have hexec : exec = execWith Config.hw := funext fun i => funext (exec_eq_execWith i)
  rw [step, stepWith, hexec]

/-- Settles O45: the dispatch agrees arm by arm, the rest is by definition. -/
theorem thisHardwareIsAnInstanceOfTheParameters : Obligations.ThisHardwareIsAnInstanceOfTheParameters :=
  ⟨exec_eq_execWith, step_eq_stepWith, rfl⟩

/-! ### What a step of the sequencer can be -/

/-- A presented word that runs to a next state ends with `complete`, after the decoded command or after nothing (R95, R99). -/
theorem State.runWord_cases {s t : State} {ex : Instr → State → Host.Outcome State Fault Refusal} {w : CmdWord}
    (h : s.runWord ex w = .next t) :
    (∃ op, decode w = .error (.reservedOpcode op) ∧ t = s.accept.complete) ∨
      ∃ i u, decode w = .ok i ∧ ex i s.accept = .next u ∧ t = u.complete := by
  unfold State.runWord at h
  split at h
  next i hi =>
    cases hu : ex i s.accept with
    | next u =>
      rw [hu] at h
      cases h
      exact .inr ⟨i, u, hi, hu, rfl⟩
    | fault r => cases r
    | refused r => rw [hu] at h; cases h
  next r hr =>
    obtain ⟨op⟩ := r
    cases h
    exact .inl ⟨op, hr, rfl⟩

/-- A step waits, runs the word presented while `CMD_READY` is 1, or ends with the power-on sequence after `RST` (R99, R225, R240). -/
theorem State.runInput_cases {s t : State} {P : Params} {ex : Instr → State → Host.Outcome State Fault Refusal}
    (h : s.runInput P ex = .next t) :
    ((s.input = [] ∨ s.cmdReady = false) ∧ t = s.clearPulses) ∨
      (∃ w rest, s.cmdReady = true ∧ s.input = .command w :: rest ∧ ({ s with input := rest } : State).runWord ex w = .next t) ∨
      ((∃ rest, s.input = .rst :: rest ∨ ∃ w n, s.input = .commandCut w n :: rest) ∧ ∃ u : State, t = u.powerOn P) := by
  unfold State.runInput at h
  split at h
  next hin => cases h; exact .inl ⟨.inl hin, rfl⟩
  next rest hin => cases h; exact .inr (.inr ⟨⟨rest, .inl hin⟩, _, rfl⟩)
  next w rest hin =>
    split at h
    next hready => exact .inr (.inl ⟨w, rest, hready, hin, h⟩)
    next hready => cases h; exact .inl ⟨.inr (by simpa using hready), rfl⟩
  next w n rest hin =>
    split at h
    all_goals
      cases h
      exact .inr (.inr ⟨⟨rest, .inr ⟨w, n, hin⟩⟩, _, rfl⟩)

/-! ### Every bank at rest, in a mode of its capability -/

/-- What R132 (i) and R185 (v) ask of the record of bank `b`: the flag clear, the clock low, the mode in the capability. -/
structure BankAtRest (P : Params) (b : BankId) (r : Bank) : Prop where
  outModeClear : r.outMode = false
  sclkLow : r.sclk = false
  modeInCapability : r.mode ∈ P.bankCap b

/-- Every bank of the state is at rest. -/
def BanksAtRest (P : Params) (s : State) : Prop := ∀ b, BankAtRest P b (s.bank b)

theorem banksAtRest_iff (P : Params) (s : State) :
    BanksAtRest P s ↔ ∀ b, (s.bank b).outMode = false ∧ (s.bank b).sclk = false ∧ (s.bank b).mode ∈ P.bankCap b :=
  forall_congr' fun _ => ⟨fun ⟨ho, hc, hm⟩ => ⟨ho, hc, hm⟩, fun ⟨ho, hc, hm⟩ => ⟨ho, hc, hm⟩⟩

namespace BanksAtRest

variable {P : Params} {s : State}

/-- An operation that leaves the bank records alone leaves them at rest. -/
theorem of_banks_eq {t : State} (hs : BanksAtRest P s) (h : t.banks = s.banks) : BanksAtRest P t := fun b =>
  State.bank_congr h b ▸ hs b

/-- An operation that replaces one bank's record by one at rest leaves every bank at rest. -/
theorem of_banks_set {t : State} {b : BankId} {r : Bank} (hs : BanksAtRest P s) (h : t.banks = s.banks.set b.val r b.isLt)
    (hr : BankAtRest P b r) : BanksAtRest P t := fun b' => by
  have hbank : t.bank b' = if b' = b then r else s.bank b' := (State.bank_congr h b').trans (s.bank_setBank b b' r)
  rw [hbank]
  split
  next e => exact e ▸ hr
  next => exact hs b'

theorem cfg (hs : BanksAtRest P s) (b : BankId) (m : Mode) : BanksAtRest P (s.cfg P b m) := by
  rw [State.cfg_spec]
  split
  next hm => exact hs.of_banks_set rfl ⟨(hs b).outModeClear, (hs b).sclkLow, hm⟩
  next => exact hs

theorem wrch (hs : BanksAtRest P s) (b : BankId) (c : ChanId) (v : Level) : BanksAtRest P (s.wrch P b c v) := by
  obtain ⟨x, -, h⟩ := s.wrch_spec P b c v (hs b).sclkLow
  rw [h]
  exact hs.of_banks_set rfl ⟨rfl, rfl, (hs b).modeInCapability⟩

theorem wrchAll (hs : BanksAtRest P s) (l : List Write) : BanksAtRest P (s.wrchAll P l) := by
  induction l generalizing s with
  | nil => exact hs
  | cons w l ih => exact ih (hs.wrch w.1 w.2.1 w.2.2)

/-- A read clears the flag of the bank it addresses and changes no other register of a bank record (R126, R128). -/
theorem addressed (hs : BanksAtRest P s) (b : BankId) (c : ChanId) : BanksAtRest P (s.addressed P b c) :=
  hs.of_banks_set rfl ⟨rfl, (hs b).sclkLow, (hs b).modeInCapability⟩

theorem rdd (hs : BanksAtRest P s) (b : BankId) (c : ChanId) : BanksAtRest P (s.rdd P b c).2 := by
  rw [State.rdd_spec]
  exact (hs.addressed b c).of_banks_eq rfl

theorem rda (hs : BanksAtRest P s) (b : BankId) (c : ChanId) : BanksAtRest P (s.rda P b c).2 := by
  rw [State.rda_spec]
  exact (hs.addressed b c).of_banks_eq rfl

theorem pinWrite (hs : BanksAtRest P s) (p : PinId) (v : Level) : BanksAtRest P (s.pinWrite P p v) := by
  rw [State.pinWrite_spec]
  split
  next =>
    have hcache : BanksAtRest P (s.setCache p (bitValue v)) := hs.of_banks_eq (s.banks_setCache _ _)
    exact hcache.wrch _ _ v
  next => exact hs

theorem acceptMode (hs : BanksAtRest P s) (p : PinId) (m : Mode) : BanksAtRest P (s.acceptMode P p m) := by
  have hrecords : BanksAtRest P (s.acceptModeRecords P p m) := hs.of_banks_eq rfl
  have hcfg := hrecords.cfg (bankOf P p) m
  unfold State.acceptMode
  split
  next => exact hcfg.pinWrite p true
  next => exact hcfg

theorem setmode (hs : BanksAtRest P s) (p : PinId) (mode : Nat) : BanksAtRest P (s.setmode P p mode) := by
  unfold State.setmode
  split
  next => exact hs
  next =>
    split
    next => exact hs.of_banks_eq rfl
    next m _ =>
      split
      next => exact hs.acceptMode p m
      next => exact hs

theorem sampd (hs : BanksAtRest P s) (k : PortId) (force : Bool) : BanksAtRest P (s.sampd P k force) := by
  have hread : BanksAtRest P (s.portRead P k) := (hs.addressed (portBank k) (portChan k 7)).of_banks_eq rfl
  rw [State.sampd_spec]
  split
  next =>
    split
    next => exact hread.of_banks_eq rfl
    next => exact hread
  next => exact hs

theorem sampa (hs : BanksAtRest P s) (c : ChanId) : BanksAtRest P (s.sampa P c) := by
  have hread := hs.addressed analogBank c
  rw [State.sampa_spec]
  dsimp only
  split
  all_goals exact hread.of_banks_eq rfl

/-- The power-on sequence puts every bank at rest whatever the state before it (R241). -/
theorem powerOn (hinit : ∀ b, P.bankModeInit b ∈ P.bankCap b) (u : State) : BanksAtRest P (u.powerOn P) := fun b => by
  rw [State.powerOn_spec]
  simpa [State.bank, State.resetWith] using (⟨rfl, rfl, hinit b⟩ : BankAtRest P b ⟨P.bankModeInit b, 0, false, false, false⟩)

/-- Every command leaves every bank at rest: a rejected form changes no bank record, an accepted one is one of the operations above. -/
theorem of_execWith {t : State} (hs : BanksAtRest P s) {i : Instr} (h : execWith P i s = .next t) : BanksAtRest P t := by
  cases i with
  | cfg bank mode =>
    simp only [execWith, execCfgWith] at h
    (repeat' split at h) <;> cases h
    exacts [hs, hs, hs.cfg _ _]
  | wrch bank chan value =>
    simp only [execWith, execWrchWith] at h
    (repeat' split at h) <;> cases h
    exacts [hs, hs, hs.wrch _ _ _]
  | rdd bank chan =>
    simp only [execWith, execRddWith] at h
    (repeat' split at h) <;> cases h
    exacts [hs.of_banks_eq rfl, hs.of_banks_eq rfl, (hs.rdd _ _).of_banks_eq rfl]
  | rda bank chan =>
    simp only [execWith, execRdaWith] at h
    (repeat' split at h) <;> cases h
    exacts [hs.of_banks_eq rfl, hs.of_banks_eq rfl, (hs.rda _ _).of_banks_eq rfl]
  | qbank bank =>
    simp only [execWith, execQbank] at h
    split at h <;> cases h
    all_goals exact hs.of_banks_eq rfl
  | reset =>
    cases h
    exact hs.of_banks_eq (s.banks_resetAlgorithm P)
  | setmode pin mode =>
    simp only [execWith, execSetmodeWith] at h
    split at h <;> cases h
    exacts [hs, hs.setmode _ _]
  | wrport port byte =>
    simp only [execWith, execWrportWith] at h
    split at h <;> cases h
    next => exact hs
    next k _ =>
      have hcache : BanksAtRest P (s.cachePort k byte) := hs.of_banks_eq (s.banks_cachePort k byte)
      exact hcache.wrchAll _
  | wrpin pin value =>
    simp only [execWith, execWrpinWith] at h
    split at h <;> cases h
    exacts [hs, hs.pinWrite _ _]
  | sampd port force =>
    simp only [execWith, execSampdWith] at h
    split at h <;> cases h
    exacts [hs, hs.sampd _ _]
  | sampa pin =>
    simp only [execWith, execSampaWith] at h
    split at h <;> cases h
    exacts [hs, hs.sampa _]
  | repd port enable =>
    simp only [execWith, execRepd] at h
    split at h <;> cases h
    exacts [hs, hs.of_banks_eq rfl]
  | repa pin enable =>
    simp only [execWith, execRepa] at h
    split at h <;> cases h
    exacts [hs, hs.of_banks_eq rfl]
  | qpin pin =>
    simp only [execWith, execQpinWith] at h
    split at h <;> cases h
    all_goals exact hs.of_banks_eq rfl
  | qport port =>
    simp only [execWith, execQport] at h
    split at h <;> cases h
    all_goals exact hs.of_banks_eq rfl

/-- Every step leaves every bank at rest, `RST` and cut commands included (R132 (i), R185 (v)). -/
theorem of_stepWith {t : State} (hinit : ∀ b, P.bankModeInit b ∈ P.bankCap b) (hs : BanksAtRest P s) (h : stepWith P s = .next t) :
    BanksAtRest P t := by
  obtain ⟨-, rfl⟩ | ⟨w, rest, -, -, hrun⟩ | ⟨-, u, rfl⟩ := State.runInput_cases h
  · exact hs.of_banks_eq rfl
  · obtain ⟨-, -, rfl⟩ | ⟨i, u, -, hexec, rfl⟩ := State.runWord_cases hrun
    · exact hs.of_banks_eq rfl
    · have hstart : BanksAtRest P ({ s with input := rest } : State).accept := hs.of_banks_eq rfl
      exact (hstart.of_execWith hexec).of_banks_eq rfl
  · exact powerOn hinit u

end BanksAtRest

/-- Settles O46: `BanksAtRest` is kept by every step. -/
theorem bankInvariantHoldsForAnyParameters : Obligations.BankInvariantHoldsForAnyParameters := by
  intro P hinit s t hs h
  have hrest : BanksAtRest P s := (banksAtRest_iff P s).mpr hs
  exact (banksAtRest_iff P t).mp (hrest.of_stepWith hinit h)

end Sys2Proof.Machine
end

section
/-! PROOFS. The physical outputs of the attached banks (spec 10_state.md R34; 40_bank_driver.md R131; 70_reset_and_hazards.md R247). -/

namespace Sys2Proof.Machine

/-- Where no jumper disagrees the output shows `Q` exactly while the write circuit is active (R34, R131). -/
theorem State.channelOutput_of_jumperMatches {s : State} {P : Params} {b : BankId} (c : ChanId) (h : s.jumperMatches P b = true) :
    s.channelOutput P b c = if (if bankNumber b ≤ 3 then (s.bank b).mode else P.jumper b) = .digitalOut then
      .driven ((s.att b).q.getLsbD c.val) else .notDriven := by
  simp only [State.channelOutput, h, Bool.not_true, Bool.false_eq_true, if_false, State.writeCircuitActive_iff]

/-- Where the jumper disagrees the output is any value and no channel is presented (R76, R247; log 18). -/
theorem State.output_of_jumperMismatch {s : State} {P : Params} {b : BankId} (c : ChanId) (h : s.jumperMatches P b = false) :
    s.channelOutput P b c = .anyValue ∧ s.presentsChannel P b c = false := by
  simp only [State.channelOutput, State.presentsChannel, h, Bool.not_false, if_true, Bool.false_and, and_self]

/-- Settles O48, by the bank number and, for banks 4 to 6, whether the jumper agrees with the mode. -/
theorem outputsFollowWriteCircuitUnlessJumperMismatch : Obligations.OutputsFollowWriteCircuitUnlessJumperMismatch := by
  intro P s b c
  refine ⟨fun hlow => ?_, fun hhigh hmode => ?_, fun hhigh hmode => ?_⟩
  · have hmatch : s.jumperMatches P b = true := (s.jumperMatches_iff P b).mpr (.inl hlow)
    rw [State.channelOutput_of_jumperMatches c hmatch, if_pos hlow]
  · have hmatch : s.jumperMatches P b = true := (s.jumperMatches_iff P b).mpr (.inr hmode)
    rw [State.channelOutput_of_jumperMatches c hmatch, if_neg (Nat.not_le.mpr hhigh)]
  · have hmismatch : s.jumperMatches P b = false := by
      rw [← Bool.not_eq_true, State.jumperMatches_iff]
      exact not_or.mpr ⟨Nat.not_le.mpr hhigh, hmode⟩
    exact State.output_of_jumperMismatch c hmismatch

end Sys2Proof.Machine
end

section
/-! PROOFS. Which commands write a bank's mode, a shadow, a pin's mode and a cached value (spec 10_state.md R21, R22, R28, R29;
42_pin_port_state_machine.md R184). -/

namespace Sys2Proof.Machine

/-! ### What the operations leave of the records -/

section LineSteps

variable (s : State) (P : Params)

@[simp] theorem State.bank_driveAddr (x : Bus) (a : BitVec 4) (b : BankId) : (s.driveAddr P x a).bank b = s.bank b := by
  unfold State.driveAddr
  split <;> simp

@[simp] theorem State.banks_shiftIn (b : BankId) : (s.shiftIn b).banks = s.banks := by
  unfold State.shiftIn
  split <;> rfl

@[simp] theorem State.bank_driveSclk (b : BankId) (v : Level) (b' : BankId) :
    (s.driveSclk b v).bank b' = (s.setBank b { s.bank b with sclk := v }).bank b' := by
  simp only [State.driveSclk]
  split
  · exact State.bank_congr (State.banks_shiftIn _ b) b'
  · rfl

@[simp] theorem State.bank_sampleTaken (b : BankId) : s.sampleTaken.bank b = s.bank b := by
  unfold State.sampleTaken
  split <;> rfl

@[simp] theorem State.bank_asampleTaken (b : BankId) : s.asampleTaken.bank b = s.bank b := by
  unfold State.asampleTaken
  split <;> rfl

/-- A register that a bank's new record takes over from the old one has changed in no bank. -/
theorem State.register_setBank {α : Type} (f : Bank → α) {b : BankId} {r : Bank} (hr : f r = f (s.bank b)) (b' : BankId) :
    f ((s.setBank b r).bank b') = f (s.bank b') := by
  rw [State.bank_setBank]
  split
  next e => exact e ▸ hr
  next => rfl

/-- A bank's mode changes by a mode write only (R21, R121). -/
theorem State.mode_drive {st : LineStep} (hst : ∀ b m, st ≠ .setMode b m) (b : BankId) :
    ((s.drive P st).bank b).mode = (s.bank b).mode := by
  have happly : ((s.apply P st).bank b).mode = (s.bank b).mode := by
    cases st with
    | setMode b' m => exact absurd rfl (hst b' m)
    | setShadow b' c v => exact s.register_setBank Bank.mode (by rfl) b
    | outMode b' v => exact s.register_setBank Bank.mode (by rfl) b
    | dataOut b' v => exact s.register_setBank Bank.mode (by rfl) b
    | sclk b' v => exact (congrArg Bank.mode (s.bank_driveSclk b' v b)).trans (s.register_setBank Bank.mode (by rfl) b)
    | latch x v => exact congrArg Bank.mode (s.bank_driveAddr P x _ b)
    | address x c => exact congrArg Bank.mode (s.bank_driveAddr P x _ b)
    | sample b' => exact congrArg Bank.mode (s.bank_sampleTaken b)
    | asample b' => exact congrArg Bank.mode (s.bank_asampleTaken b)
  exact happly

theorem State.mode_runSteps {l : List LineStep} (hl : ∀ st ∈ l, ∀ b m, st ≠ .setMode b m) (b : BankId) :
    ((s.runSteps P l).bank b).mode = (s.bank b).mode := by
  induction l generalizing s with
  | nil => rfl
  | cons st l ih =>
    rw [List.forall_mem_cons] at hl
    rw [State.runSteps_cons, ih _ hl.2, State.mode_drive s P hl.1]

/-- No step of a `WRCH` is a mode write (R123). -/
theorem wrchSteps_ne_setMode (b : BankId) (c : ChanId) (v : Level) (sh : Frame) :
    ∀ st ∈ wrchSteps P b c v sh, ∀ b' m, st ≠ .setMode b' m := by
  intro st hst b' m he
  subst he
  simp [wrchSteps, shiftFrame, shiftBit] at hst

end LineSteps

section BankOperations

variable (s : State) (P : Params)

@[simp] theorem State.shadow_cfg (b : BankId) (m : Mode) (b' : BankId) : ((s.cfg P b m).bank b').shadow = (s.bank b').shadow := by
  rw [State.cfg_spec]
  split
  next => exact s.register_setBank Bank.shadow (r := { s.bank b with mode := m }) rfl b'
  next => rfl

@[simp] theorem State.pin_cfg (b : BankId) (m : Mode) (p : PinId) : (s.cfg P b m).pin p = s.pin p := by
  obtain ⟨-, -, hpins, -⟩ := s.runSteps_other P (cfgSteps P b m)
  exact State.pin_congr hpins p

@[simp] theorem State.mode_wrch (b : BankId) (c : ChanId) (v : Level) (b' : BankId) :
    ((s.wrch P b c v).bank b').mode = (s.bank b').mode :=
  s.mode_runSteps P (wrchSteps_ne_setMode P b c v _) b'

@[simp] theorem State.pin_wrch (b : BankId) (c : ChanId) (v : Level) (p : PinId) : (s.wrch P b c v).pin p = s.pin p := by
  obtain ⟨-, -, hpins, -⟩ := s.runSteps_other P (wrchSteps P b c v (s.bank b).shadow)
  exact State.pin_congr hpins p

@[simp] theorem State.mode_wrchAll (l : List Write) (b : BankId) : ((s.wrchAll P l).bank b).mode = (s.bank b).mode := by
  induction l generalizing s with
  | nil => rfl
  | cons w l ih => rw [State.wrchAll, ih, State.mode_wrch]

@[simp] theorem State.pin_wrchAll (l : List Write) (p : PinId) : (s.wrchAll P l).pin p = s.pin p := by
  induction l generalizing s with
  | nil => rfl
  | cons w l ih => rw [State.wrchAll, ih, State.pin_wrch]

/-! An address presented for a read clears a bank's flag and changes no other register of a bank record (R126, R128). -/

@[simp] theorem State.mode_addressed (b : BankId) (c : ChanId) (b' : BankId) :
    ((s.addressed P b c).bank b').mode = (s.bank b').mode :=
  s.register_setBank Bank.mode (r := { s.bank b with outMode := false }) rfl b'

@[simp] theorem State.shadow_addressed (b : BankId) (c : ChanId) (b' : BankId) :
    ((s.addressed P b c).bank b').shadow = (s.bank b').shadow :=
  s.register_setBank Bank.shadow (r := { s.bank b with outMode := false }) rfl b'

end BankOperations

section PinOperations

variable (s : State) (P : Params)

@[simp] theorem State.currentMode_setCache (p : PinId) (v : Frame) (p' : PinId) :
    ((s.setCache p v).pin p').currentMode = (s.pin p').currentMode := by
  rw [State.pin_setCache]
  split
  next e => rw [e]
  next => rfl

@[simp] theorem State.currentMode_cachePort (k : PortId) (byte : Byte) (p : PinId) :
    ((s.cachePort k byte).pin p).currentMode = (s.pin p).currentMode := by
  rw [State.pin_cachePort]
  split <;> rfl

@[simp] theorem State.mode_pinWrite (p : PinId) (v : Level) (b : BankId) : ((s.pinWrite P p v).bank b).mode = (s.bank b).mode := by
  rw [State.pinWrite_spec]
  split
  next => rw [State.mode_wrch, State.bank_setCache]
  next => rfl

@[simp] theorem State.currentMode_pinWrite (p : PinId) (v : Level) (p' : PinId) :
    ((s.pinWrite P p v).pin p').currentMode = (s.pin p').currentMode := by
  rw [State.pinWrite_spec]
  split
  next => rw [State.pin_wrch, State.currentMode_setCache]
  next => rfl

/-- The `WRPIN` algorithm does nothing on a pin that is not in DigitalOut (R177). -/
theorem State.pinWrite_of_ne_digitalOut {p : PinId} (v : Level) (h : (s.pin p).currentMode ≠ .digitalOut) :
    s.pinWrite P p v = s := by
  rw [State.pinWrite_spec, if_neg fun hout => h hout.2]

theorem State.currentMode_acceptModeRecords (p : PinId) (m : Mode) : ((s.acceptModeRecords P p m).pin p).currentMode = m := by
  simp [State.acceptModeRecords, State.setInputBit]

/-- The synthesized logical high of an accepted pull-up writes no channel: the pin is no longer in DigitalOut (R174, R187). -/
theorem State.acceptMode_eq (p : PinId) (m : Mode) : s.acceptMode P p m = (s.acceptModeRecords P p m).cfg P (bankOf P p) m := by
  unfold State.acceptMode
  split
  next hm =>
    apply State.pinWrite_of_ne_digitalOut
    rw [State.pin_cfg, State.currentMode_acceptModeRecords, hm]
    decide
  next => rfl

/-- `SETMODE` writes no shadow, although it runs the `WRPIN` algorithm on a pull-up (R22, R187). -/
theorem State.shadow_setmode (p : PinId) (mode : Nat) (b : BankId) : ((s.setmode P p mode).bank b).shadow = (s.bank b).shadow := by
  unfold State.setmode
  split
  next => rfl
  next =>
    split
    next => rw [State.bank_setCache]
    next m _ =>
      split
      next =>
        rw [State.acceptMode_eq, State.shadow_cfg]
        exact congrArg Bank.shadow (State.bank_congr rfl b)
      next => rfl

end PinOperations

/-! ### Every command writes only the records that are its own -/

/-- From `s` to `t` the command `i` has written no bank mode, shadow, pin mode or cached value that it may not write. -/
structure WritesOnlyItsRecords (i : Instr) (s t : State) : Prop where
  mode : mayWriteBankMode i = false → ∀ b, (t.bank b).mode = (s.bank b).mode
  shadow : mayWriteShadow i = false → ∀ b, (t.bank b).shadow = (s.bank b).shadow
  currentMode : mayWritePinMode i = false → ∀ p, (t.pin p).currentMode = (s.pin p).currentMode
  cachedValue : mayWriteCache i = false → ∀ p, (t.pin p).cachedValue = (s.pin p).cachedValue

namespace WritesOnlyItsRecords

variable {P : Params} {i : Instr} {s t : State}

/-- A command that leaves the bank and pin records alone. -/
theorem of_records_eq (hbanks : t.banks = s.banks) (hpins : t.pins = s.pins) : WritesOnlyItsRecords i s t where
  mode _ b := congrArg Bank.mode (State.bank_congr hbanks b)
  shadow _ b := congrArg Bank.shadow (State.bank_congr hbanks b)
  currentMode _ p := congrArg Pin.currentMode (State.pin_congr hpins p)
  cachedValue _ p := congrArg Pin.cachedValue (State.pin_congr hpins p)

/-- A command that does to the bank records what a read does, and leaves the pin records alone. -/
theorem of_read (b : BankId) (c : ChanId) (hbanks : t.banks = (s.addressed P b c).banks) (hpins : t.pins = s.pins) :
    WritesOnlyItsRecords i s t where
  mode _ b' := by rw [State.bank_congr hbanks, State.mode_addressed]
  shadow _ b' := by rw [State.bank_congr hbanks, State.shadow_addressed]
  currentMode _ p := congrArg Pin.currentMode (State.pin_congr hpins p)
  cachedValue _ p := congrArg Pin.cachedValue (State.pin_congr hpins p)

theorem cfg (bank mode : Nat) (b : BankId) (m : Mode) : WritesOnlyItsRecords (.cfg bank mode) s (s.cfg P b m) where
  mode := nofun
  shadow _ := s.shadow_cfg P b m
  currentMode _ p := by rw [State.pin_cfg]
  cachedValue _ p := by rw [State.pin_cfg]

theorem wrch (bank chan value : Nat) (b : BankId) (c : ChanId) (v : Level) :
    WritesOnlyItsRecords (.wrch bank chan value) s (s.wrch P b c v) where
  mode _ := s.mode_wrch P b c v
  shadow := nofun
  currentMode _ p := by rw [State.pin_wrch]
  cachedValue _ p := by rw [State.pin_wrch]

theorem rdd (b : BankId) (c : ChanId) (value : BitVec 32) : WritesOnlyItsRecords i s ((s.rdd P b c).2.respond false value) := by
  rw [State.rdd_spec]
  exact of_read (P := P) b c rfl rfl

theorem rda (b : BankId) (c : ChanId) (value : BitVec 32) : WritesOnlyItsRecords i s ((s.rda P b c).2.respond false value) := by
  rw [State.rda_spec]
  exact of_read (P := P) b c rfl rfl

theorem reset : WritesOnlyItsRecords .reset s (s.resetAlgorithm P) where
  mode _ b := by rw [State.bank_resetAlgorithm]
  shadow _ b := by rw [State.bank_resetAlgorithm]
  currentMode := nofun
  cachedValue := nofun

theorem setmode (pin mode : Nat) (p : PinId) : WritesOnlyItsRecords (.setmode pin mode) s (s.setmode P p mode) where
  mode := nofun
  shadow _ := s.shadow_setmode P p mode
  currentMode := nofun
  cachedValue := nofun

theorem wrport (port : Nat) (byte : Byte) (k : PortId) (l : List Write) :
    WritesOnlyItsRecords (.wrport port byte) s ((s.cachePort k byte).wrchAll P l) where
  mode _ b := by rw [State.mode_wrchAll, State.bank_cachePort]
  shadow := nofun
  currentMode _ p := by rw [State.pin_wrchAll, State.currentMode_cachePort]
  cachedValue := nofun

theorem wrpin (pin value : Nat) (p : PinId) (v : Level) : WritesOnlyItsRecords (.wrpin pin value) s (s.pinWrite P p v) where
  mode _ := s.mode_pinWrite P p v
  shadow := nofun
  currentMode _ := s.currentMode_pinWrite P p v
  cachedValue := nofun

theorem sampd (k : PortId) (force : Bool) : WritesOnlyItsRecords i s (s.sampd P k force) := by
  rw [State.sampd_spec]
  split
  next =>
    split
    all_goals exact of_read (P := P) (portBank k) (portChan k 7) rfl rfl
  next => exact of_records_eq rfl rfl

theorem sampa (pin : Nat) (c : ChanId) : WritesOnlyItsRecords (.sampa pin) s (s.sampa P c) := by
  have hbanks : (s.sampa P c).banks = (s.addressed P analogBank c).banks := by
    rw [State.sampa_spec]
    dsimp only
    split <;> rfl
  have hpins : (s.sampa P c).pins = (s.setCache (analogPin c) (s.asampleValue P)).pins := by
    rw [State.sampa_spec]
    dsimp only
    split <;> rfl
  exact
    { mode := fun _ b => by rw [State.bank_congr hbanks, State.mode_addressed]
      shadow := fun _ b => by rw [State.bank_congr hbanks, State.shadow_addressed]
      currentMode := fun _ p => by rw [State.pin_congr hpins, State.currentMode_setCache]
      cachedValue := nofun }

/-- A rejected form changes no bank or pin record, an accepted one is one of the operations above. -/
theorem of_execWith (h : execWith P i s = .next t) : WritesOnlyItsRecords i s t := by
  cases i with
  | cfg bank mode =>
    simp only [execWith, execCfgWith] at h
    (repeat' split at h) <;> cases h
    exacts [of_records_eq rfl rfl, of_records_eq rfl rfl, cfg bank mode _ _]
  | wrch bank chan value =>
    simp only [execWith, execWrchWith] at h
    (repeat' split at h) <;> cases h
    exacts [of_records_eq rfl rfl, of_records_eq rfl rfl, wrch bank chan value _ _ _]
  | rdd bank chan =>
    simp only [execWith, execRddWith] at h
    (repeat' split at h) <;> cases h
    exacts [of_records_eq rfl rfl, of_records_eq rfl rfl, rdd _ _ _]
  | rda bank chan =>
    simp only [execWith, execRdaWith] at h
    (repeat' split at h) <;> cases h
    exacts [of_records_eq rfl rfl, of_records_eq rfl rfl, rda _ _ _]
  | qbank bank =>
    simp only [execWith, execQbank] at h
    split at h <;> cases h
    all_goals exact of_records_eq rfl rfl
  | reset =>
    cases h
    exact reset
  | setmode pin mode =>
    simp only [execWith, execSetmodeWith] at h
    split at h <;> cases h
    exacts [of_records_eq rfl rfl, setmode pin mode _]
  | wrport port byte =>
    simp only [execWith, execWrportWith] at h
    split at h <;> cases h
    exacts [of_records_eq rfl rfl, wrport port byte _ _]
  | wrpin pin value =>
    simp only [execWith, execWrpinWith] at h
    split at h <;> cases h
    exacts [of_records_eq rfl rfl, wrpin pin value _ _]
  | sampd port force =>
    simp only [execWith, execSampdWith] at h
    split at h <;> cases h
    exacts [of_records_eq rfl rfl, sampd _ _]
  | sampa pin =>
    simp only [execWith, execSampaWith] at h
    split at h <;> cases h
    exacts [of_records_eq rfl rfl, sampa pin _]
  | repd port enable =>
    simp only [execWith, execRepd] at h
    split at h <;> cases h
    all_goals exact of_records_eq rfl rfl
  | repa pin enable =>
    simp only [execWith, execRepa] at h
    split at h <;> cases h
    all_goals exact of_records_eq rfl rfl
  | qpin pin =>
    simp only [execWith, execQpinWith] at h
    split at h <;> cases h
    all_goals exact of_records_eq rfl rfl
  | qport port =>
    simp only [execWith, execQport] at h
    split at h <;> cases h
    all_goals exact of_records_eq rfl rfl

end WritesOnlyItsRecords

/-- Settles O43: each command's writes, for any parameters, at this hardware's. -/
theorem recordsHaveOnlyTheirWriters : Obligations.RecordsHaveOnlyTheirWriters := by
  intro i s t h
  rw [exec_eq_execWith] at h
  obtain ⟨hmode, hshadow, hpinMode, hcache⟩ := WritesOnlyItsRecords.of_execWith h
  exact ⟨hmode, hshadow, hpinMode, hcache⟩

end Sys2Proof.Machine
end

section
/-! PROOFS. The step of an accepted command word (spec 20_memory.md R72; 30_encoding.md R99). -/

namespace Sys2Proof.Machine

section Accepted

variable {s : State} {ex : Instr → State → Host.Outcome State Fault Refusal} {w : CmdWord}

/-- With `CMD_READY` = 1 the word presented next is taken and runs (R99). -/
theorem State.runInput_command {rest : List HostInput} (P : Params) (hready : s.cmdReady = true)
    (hinput : s.input = .command w :: rest) : s.runInput P ex = ({ s with input := rest } : State).runWord ex w := by
  simp only [State.runInput, hinput, hready, if_true]

/-- A word that decodes runs its command from acceptance to completion (R72, R99). -/
theorem State.runWord_of_decode_ok {i : Instr} (hdecode : decode w = .ok i) :
    s.runWord ex w = completeOutcome (ex i s.accept) := by
  simp only [State.runWord, hdecode]

end Accepted

/-- Settles O4: the word is taken, decoded, and its command's outcome completed, whichever of the three it is. -/
theorem stepRunsDecodedCommand : Obligations.StepRunsDecodedCommand := by
  intro s w rest i hready hinput hdecode
  have hstep : step s = completeOutcome (exec i ({ s with input := rest } : State).accept) :=
    (State.runInput_command Config.hw hready hinput).trans (State.runWord_of_decode_ok hdecode)
  have haccept : ({ s with input := rest } : State).accept =
      { s with input := rest, cmdReady := false, done := false, rsp := [], evt := [], trace := [] } := rfl
  rw [hstep, haccept]
  cases exec i { s with input := rest, cmdReady := false, done := false, rsp := [], evt := [], trace := [] } with
  | next t => rfl
  | fault r => rfl
  | refused r => rfl

end Sys2Proof.Machine
end

section
/-! PROOFS. The opcode map and the round trip of encoding and decoding (spec 30_encoding.md R90 to R95, R100). -/

namespace Sys2Proof

/-! ### The round trip -/

/-- An operand that fits its field is read back from it (R91). -/
theorem operandField_toNat_of_fitsField {n : Nat} (h : fitsField n = true) : (operandField n).toNat = n :=
  operandField_toNat (of_decide_eq_true h)

/-- A well-formed command is what its opcode makes of its fields: no operand is cut to its field (R91, R94). -/
theorem commandOf_fields {i : Instr} (h : i.wellFormed = true) :
    commandOf i.opcode i.fields.1 i.fields.2.1 i.fields.2.2 = i := by
  cases i
  case reset => rfl
  case qbank | sampa | qpin | qport | wrport =>
    simp only [Instr.opcode, Instr.fields, commandOf, operandField_toNat_of_fitsField h]
  case cfg | rdd | rda | setmode | wrpin | sampd | repd | repa =>
    obtain ⟨ha, hb⟩ := Bool.and_eq_true_iff.mp h
    simp only [Instr.opcode, Instr.fields, commandOf, operandField_toNat_of_fitsField ha, operandField_toNat_of_fitsField hb]
  case wrch =>
    obtain ⟨hbank, hrest⟩ := Bool.and_eq_true_iff.mp h
    obtain ⟨hchan, hvalue⟩ := Bool.and_eq_true_iff.mp hrest
    simp only [Instr.opcode, Instr.fields, commandOf, operandField_toNat_of_fitsField hbank,
      operandField_toNat_of_fitsField hchan, operandField_toNat_of_fitsField hvalue]

/-- Settles O1: `decode` recovers the opcode and the three fields of the word, and these determine the command. -/
theorem decodeOfEncodeIsIdentity : Obligations.DecodeOfEncodeIsIdentity := by
  intro i hwf
  calc decode (encode i)
      = .ok (commandOf i.opcode i.fields.1 i.fields.2.1 i.fields.2.2) := decode_mkWord _ _ _ _
    _ = .ok i := by rw [commandOf_fields hwf]

/-! ### The rows of the opcode table -/

/-- Settles O2, row by row: `decode_mkWord` at the row's opcode, with all three fields free. -/
theorem operandsAreUnsignedAndUnusedFieldsIgnored : Obligations.OperandsAreUnsignedAndUnusedFieldsIgnored := fun a b c =>
  ⟨decode_mkWord .cfg a b c, decode_mkWord .wrch a b c, decode_mkWord .rdd a b c, decode_mkWord .rda a b c,
    decode_mkWord .qbank a b c, decode_mkWord .reset a b c, decode_mkWord .setmode a b c, decode_mkWord .wrport a b c,
    decode_mkWord .wrpin a b c, decode_mkWord .sampd a b c, decode_mkWord .sampa a b c, decode_mkWord .repd a b c,
    decode_mkWord .repa a b c, decode_mkWord .qpin a b c, decode_mkWord .qport a b c⟩

/-- Settles O3: each assembled word is its opcode's with the written fields, unused ones 0 (R100). -/
theorem assembledExamplesDecode : Obligations.AssembledExamplesDecode :=
  ⟨decode_mkWord .wrch 6 5 1, decode_mkWord .setmode 20 2 0, decode_mkWord .reset 0 0 0, decode_mkWord .sampd 2 0 0⟩

/-! ### The reserved opcodes (R95) -/

/-- `decode` rejects a word exactly when its `op` byte has no row (R95). -/
theorem exists_decode_eq_error_iff (w : CmdWord) : (∃ e, decode w = .error e) ↔ opcodeOf (opField w) = none := by
  unfold decode
  cases opcodeOf (opField w) with
  | some o => simp
  | none => simp

/-- The `op` bytes without a row are the three ranges of R95. -/
theorem opcodeOf_eq_none_iff (op : Byte) :
    opcodeOf op = none ↔ op.toNat ≤ 0x0F ∨ (0x15 ≤ op.toNat ∧ op.toNat ≤ 0x1F) ∨ 0x2A ≤ op.toNat := by
  have hrows : opcodeOf op = none ↔ ∀ o ∈ opcodes, o.code.toNat ≠ op.toNat := by
    simp only [opcodeOf, List.find?_eq_none, beq_iff_eq, BitVec.toNat_eq, ne_eq]
  rw [hrows]
  simp only [opcodes, List.forall_mem_cons, List.not_mem_nil, Opcode.code, BitVec.reduceToNat, false_imp_iff, implies_true,
    and_true]
  omega

end Sys2Proof
end

section
/-! PROOFS. The steps that run no command: a reserved opcode, and waiting (spec 30_encoding.md R95, R99; 60_exceptions.md R225;
70_reset_and_hazards.md R243). -/

namespace Sys2Proof.Machine

section NoCommand

variable {s : State} {ex : Instr → State → Host.Outcome State Fault Refusal} {w : CmdWord}

/-- A word that does not decode is accepted and completes, with nothing in between (R95). -/
theorem State.runWord_of_decode_error {e : DecodeReject} (hdecode : decode w = .error e) :
    s.runWord ex w = .next s.accept.complete := by
  simp only [State.runWord, hdecode]

/-- With nothing presented the block waits (R225, R243). -/
theorem State.runInput_nil (P : Params) (hinput : s.input = []) : s.runInput P ex = .next s.clearPulses := by
  simp only [State.runInput, hinput]

/-- While `CMD_READY` is 0 a presented word waits (log 2). -/
theorem State.runInput_command_of_not_ready {rest : List HostInput} (P : Params) (hready : s.cmdReady = false)
    (hinput : s.input = .command w :: rest) : s.runInput P ex = .next s.clearPulses := by
  simp only [State.runInput, hinput, hready, Bool.false_eq_true, if_false]

end NoCommand

/-- Settles O5: the rows leave out exactly the listed ranges, and a word without a row is accepted and completed at once. -/
theorem reservedOpcodeCompletesAsNoOp : Obligations.ReservedOpcodeCompletesAsNoOp := by
  constructor
  · intro w
    exact (exists_decode_eq_error_iff w).trans (opcodeOf_eq_none_iff (opField w))
  · intro s w rest e hready hinput hdecode
    calc step s
        = ({ s with input := rest } : State).runWord exec w := State.runInput_command Config.hw hready hinput
      _ = .next ({ s with input := rest } : State).accept.complete := State.runWord_of_decode_error hdecode

/-- Settles O6: in both cases the step only ends the pulses of the step before. -/
theorem blockWaitsWithoutAcceptedCommand : Obligations.BlockWaitsWithoutAcceptedCommand :=
  ⟨fun _ hinput => State.runInput_nil Config.hw hinput,
    fun _ _ _ hready hinput => State.runInput_command_of_not_ready Config.hw hready hinput⟩

end Sys2Proof.Machine
end

section
/-! PROOFS. What a command can do: the one inversion of `execWith` that the statements about every command use (spec 30_encoding.md
R94; 40_bank_driver.md R120; 60_exceptions.md R226). -/

namespace Sys2Proof.Machine

/-- The state after a command run from `s`: unchanged or one response later for a form that moves no line, else the state after one
operation on operands in range. -/
inductive CommandEffect (P : Params) (s : State) : Instr → State → Prop
  | nothing {i : Instr} (hsteps : lineSteps P i s = []) : CommandEffect P s i s
  | response {i : Instr} (hsteps : lineSteps P i s = []) (err : Bool) (value : BitVec 32) : CommandEffect P s i (s.respond err value)
  | cfg {bank mode : Nat} {b : BankId} {m : Mode} (hbank : bankOperand bank = some b) (hmode : modeOperand mode = some m) :
    CommandEffect P s (.cfg bank mode) (s.cfg P b m)
  | wrch {bank chan value : Nat} {b : BankId} {c : ChanId} (hbank : bankOperand bank = some b) (hchan : chanOperand chan = some c) :
    CommandEffect P s (.wrch bank chan value) (s.wrch P b c (boolOperand value))
  | rdd {bank chan : Nat} {b : BankId} {c : ChanId} (hbank : bankOperand bank = some b) (hchan : chanOperand chan = some c)
    (value : BitVec 32) : CommandEffect P s (.rdd bank chan) ((s.rdd P b c).2.respond false value)
  | rda {bank chan : Nat} {b : BankId} {c : ChanId} (hbank : bankOperand bank = some b) (hchan : chanOperand chan = some c)
    (value : BitVec 32) : CommandEffect P s (.rda bank chan) ((s.rda P b c).2.respond false value)
  | reset : CommandEffect P s .reset (s.resetAlgorithm P)
  | setmode {pin mode : Nat} {p : PinId} (hpin : pinOperand pin = some p) : CommandEffect P s (.setmode pin mode) (s.setmode P p mode)
  | wrport {port : Nat} {byte : Byte} {k : PortId} (hport : portOperand port = some k) :
    CommandEffect P s (.wrport port byte) ((s.cachePort k byte).wrchAll P (s.portWrites P k byte))
  | wrpin {pin value : Nat} {p : PinId} (hpin : pinOperand pin = some p) :
    CommandEffect P s (.wrpin pin value) (s.pinWrite P p (boolOperand value))
  | sampd {port force : Nat} {k : PortId} (hport : portOperand port = some k) :
    CommandEffect P s (.sampd port force) (s.sampd P k (boolOperand force))
  | sampa {pin : Nat} {c : ChanId} (hpin : analogPinOperand pin = some c) : CommandEffect P s (.sampa pin) (s.sampa P c)
  | repd {port enable : Nat} {k : PortId} (hport : portOperand port = some k) :
    CommandEffect P s (.repd port enable) (s.setPort k { s.port k with reportEnabled := boolOperand enable })
  | repa {pin enable : Nat} {c : ChanId} (hpin : analogPinOperand pin = some c) :
    CommandEffect P s (.repa pin enable) { s with analogReport := setBit s.analogReport c.val (boolOperand enable) }

namespace CommandEffect

/-- Each command checks its operands in the order of its meaning; past the checks it is one operation (R226). -/
theorem of_execWith {P : Params} {s t : State} {i : Instr} (h : execWith P i s = .next t) : CommandEffect P s i t := by
  cases i with
  | cfg bank mode =>
    simp only [execWith, execCfgWith] at h
    split at h
    next hbank => cases h; exact .nothing (by simp [lineSteps, hbank])
    next b hbank =>
      split at h
      next hmode => cases h; exact .nothing (by simp [lineSteps, hmode])
      next m hmode => cases h; exact .cfg hbank hmode
  | wrch bank chan value =>
    simp only [execWith, execWrchWith] at h
    split at h
    next hbank => cases h; exact .nothing (by simp [lineSteps, hbank])
    next b hbank =>
      split at h
      next hchan => cases h; exact .nothing (by simp [lineSteps, hchan])
      next c hchan => cases h; exact .wrch hbank hchan
  | rdd bank chan =>
    simp only [execWith, execRddWith] at h
    split at h
    next hbank => cases h; exact .response (by simp [lineSteps, hbank]) _ _
    next b hbank =>
      split at h
      next hchan => cases h; exact .response (by simp [lineSteps, hchan]) _ _
      next c hchan => cases h; exact .rdd hbank hchan _
  | rda bank chan =>
    simp only [execWith, execRdaWith] at h
    split at h
    next hbank => cases h; exact .response (by simp [lineSteps, hbank]) _ _
    next b hbank =>
      split at h
      next hchan => cases h; exact .response (by simp [lineSteps, hchan]) _ _
      next c hchan => cases h; exact .rda hbank hchan _
  | qbank bank =>
    simp only [execWith, execQbank] at h
    split at h <;> cases h
    all_goals exact .response rfl _ _
  | reset => cases h; exact .reset
  | setmode pin mode =>
    simp only [execWith, execSetmodeWith] at h
    split at h
    next hpin => cases h; exact .nothing (by simp [lineSteps, hpin])
    next p hpin => cases h; exact .setmode hpin
  | wrport port byte =>
    simp only [execWith, execWrportWith] at h
    split at h
    next hport => cases h; exact .nothing (by simp [lineSteps, hport])
    next k hport => cases h; exact .wrport hport
  | wrpin pin value =>
    simp only [execWith, execWrpinWith] at h
    split at h
    next hpin => cases h; exact .nothing (by simp [lineSteps, hpin])
    next p hpin => cases h; exact .wrpin hpin
  | sampd port force =>
    simp only [execWith, execSampdWith] at h
    split at h
    next hport => cases h; exact .nothing (by simp [lineSteps, hport])
    next k hport => cases h; exact .sampd hport
  | sampa pin =>
    simp only [execWith, execSampaWith] at h
    split at h
    next hpin => cases h; exact .nothing (by simp [lineSteps, hpin])
    next c hpin => cases h; exact .sampa hpin
  | repd port enable =>
    simp only [execWith, execRepd] at h
    split at h
    next => cases h; exact .nothing rfl
    next k hport => cases h; exact .repd hport
  | repa pin enable =>
    simp only [execWith, execRepa] at h
    split at h
    next => cases h; exact .nothing rfl
    next c hpin => cases h; exact .repa hpin
  | qpin pin =>
    simp only [execWith, execQpinWith] at h
    split at h <;> cases h
    all_goals exact .response rfl _ _
  | qport port =>
    simp only [execWith, execQport] at h
    split at h <;> cases h
    all_goals exact .response rfl _ _

theorem of_exec {s t : State} {i : Instr} (h : exec i s = .next t) : CommandEffect Config.hw s i t :=
  of_execWith ((exec_eq_execWith i s).symm.trans h)

end CommandEffect

end Sys2Proof.Machine
end

section
/-! PROOFS. The invariant of operation boundaries (spec 40_bank_driver.md R132; 42_pin_port_state_machine.md R185; 30_encoding.md R99;
70_reset_and_hazards.md R241). -/

namespace Sys2Proof.Machine

/-! ### The pin and port records at an operation boundary -/

/-- What R185 (i) and (iv) ask of the record of pin `p`. -/
structure PinInRange (p : PinId) (r : Pin) : Prop where
  modeAllowed : r.currentMode ∈ Config.allowed p
  digitalCache : 16 ≤ p.val → r.cachedValue.toNat ≤ 1
  analogCache : p.val ≤ 15 → r.cachedValue.toNat < 2 ^ Config.AW

/-- What R185 (iii) asks of the record of port `k`. -/
def MaskInRange (k : PortId) (r : Port) : Prop := ¬(2 ≤ k.val ∧ k.val ≤ 9) → r.inputMask = 0

/-- Every pin and port record of the state is as R185 asks. -/
structure RecordsInRange (s : State) : Prop where
  pins : ∀ p, PinInRange p (s.pin p)
  ports : ∀ k, MaskInRange k (s.port k)

theorem inv_iff (s : State) : Inv s ↔ BanksAtRest Config.hw s ∧ RecordsInRange s ∧ s.cmdReady = true :=
  ⟨fun h => ⟨fun b => ⟨h.outModeClear b, h.sclkLow b, h.modeInCapability b⟩,
      ⟨fun p => ⟨h.pinModeAllowed p, h.digitalCache p, h.analogCache p⟩, h.inputMaskOfInputPorts⟩, h.ready⟩,
    fun ⟨hbanks, ⟨hpins, hports⟩, hready⟩ =>
      { outModeClear := fun b => (hbanks b).outModeClear
        sclkLow := fun b => (hbanks b).sclkLow
        modeInCapability := fun b => (hbanks b).modeInCapability
        pinModeAllowed := fun p => (hpins p).modeAllowed
        inputMaskOfInputPorts := hports
        digitalCache := fun p => (hpins p).digitalCache
        analogCache := fun p => (hpins p).analogCache
        ready := hready }⟩

/-- A cached value of 0 or 1 is in range for every pin, `AW` being at least 1 (R8, R185 (iv)). -/
theorem PinInRange.of_cache_le_one {p : PinId} {r : Pin} (hmode : r.currentMode ∈ Config.allowed p) (hcache : r.cachedValue.toNat ≤ 1) :
    PinInRange p r where
  modeAllowed := hmode
  digitalCache _ := hcache
  analogCache _ := by
    have hAW : Config.AW ≠ 0 := Nat.one_le_iff_ne_zero.mp (paramsAW_range Config.hw).1
    exact hcache.trans_lt (Nat.one_lt_two_pow hAW)

/-- The mode `StepB` derives for a pin is one of its own, whatever its bank's mode is (R27, R173). -/
theorem resetPinMode_mem_allowed (p : PinId) (m : Mode) : resetPinMode p m ∈ Config.allowed p := by
  rw [mem_allowed_iff, resetPinMode]
  split
  next h => exact .inl ⟨h, rfl⟩
  next h15 =>
    split
    next h => exact .inr (.inr ⟨h, rfl⟩)
    next h80 =>
      have hmiddle : 16 ≤ p.val ∧ p.val ≤ 79 := by omega
      split
      next => exact .inr (.inl ⟨hmiddle.1, hmiddle.2, .inr rfl⟩)
      next => exact .inr (.inl ⟨hmiddle.1, hmiddle.2, .inl rfl⟩)

theorem pinInRange_reset (p : PinId) (m : Mode) :
    PinInRange p { currentMode := resetPinMode p m, cachedValue := initialCache (resetPinMode p m) } :=
  .of_cache_le_one (resetPinMode_mem_allowed p m) (initialCache_toNat_le _)

/-- `StepA` opens a mask only where the bank can be a digital input: ports 2 to 9 lie in banks 2 to 5 (R8, R63, R172). -/
theorem maskInRange_reset {k : PortId} {m : Mode} (hm : m ∈ Config.bankCap (portBank k)) : MaskInRange k (resetPort m) := by
  intro hk
  have hbank : ¬(2 ≤ bankNumber (portBank k) ∧ bankNumber (portBank k) ≤ 5) := by simp only [bankNumber, portBank]; omega
  have hinput : isDigitalInput m = false := by
    rcases (mem_bankCap_iff _ _).mp hm with rfl | ⟨-, rfl⟩ | ⟨h2, h5, -⟩ | ⟨-, rfl⟩
    · rfl
    · rfl
    · exact absurd ⟨h2, h5⟩ hbank
    · rfl
  simp [resetPort, hinput]

/-- An accepted mode opens a bit of a port's mask only for pins 16 to 79, whose ports are 2 to 9 (R27, R62, R174). -/
theorem maskInRange_setInput {p : PinId} {m : Mode} {r : Port} (hm : m ∈ Config.allowed p) (hr : MaskInRange (portOf Config.hw p) r) :
    MaskInRange (portOf Config.hw p)
      { r with inputMask := setBit r.inputMask (bitOf Config.hw p).val (isDigitalInput m) } := by
  intro hk
  have hport : (portOf Config.hw p).val = p.val / 8 := rfl
  have hinput : isDigitalInput m = false := by
    rcases (mem_allowed_iff p m).mp hm with ⟨-, rfl⟩ | ⟨h16, h79, -⟩ | ⟨-, rfl⟩
    · rfl
    · omega
    · rfl
  rw [hinput, hr hk]
  exact setBit_same 0 _ (bitOf Config.hw p).isLt false (by simp)

/-! ### Every operation keeps the pin and port records in range -/

namespace RecordsInRange

variable {s t : State}

theorem of_records_eq (hs : RecordsInRange s) (hpins : t.pins = s.pins) (hports : t.ports = s.ports) : RecordsInRange t where
  pins p := State.pin_congr hpins p ▸ hs.pins p
  ports k := State.port_congr hports k ▸ hs.ports k

/-- Line steps touch no pin or port record (R170). -/
theorem runSteps (hs : RecordsInRange s) (P : Params) (l : List LineStep) : RecordsInRange (s.runSteps P l) := by
  obtain ⟨-, -, hpins, hports, -⟩ := s.runSteps_other P l
  exact hs.of_records_eq hpins hports

theorem setPin (hs : RecordsInRange s) {p : PinId} {r : Pin} (hr : PinInRange p r) : RecordsInRange (s.setPin p r) where
  pins p' := by
    rw [State.pin_setPin]
    split
    next e => exact e ▸ hr
    next => exact hs.pins p'
  ports k := by rw [State.port_setPin]; exact hs.ports k

theorem setPort (hs : RecordsInRange s) {k : PortId} {r : Port} (hr : MaskInRange k r) : RecordsInRange (s.setPort k r) where
  pins p := by rw [State.pin_setPort]; exact hs.pins p
  ports k' := by
    rw [State.port_setPort]
    split
    next e => exact e ▸ hr
    next => exact hs.ports k'

/-- A write of 0 or 1 to a cache. -/
theorem setCache_le_one (hs : RecordsInRange s) (p : PinId) {v : Frame} (hv : v.toNat ≤ 1) : RecordsInRange (s.setCache p v) :=
  hs.setPin (.of_cache_le_one (hs.pins p).modeAllowed hv)

theorem wrchAll (hs : RecordsInRange s) (P : Params) (l : List Write) : RecordsInRange (s.wrchAll P l) := by
  induction l generalizing s with
  | nil => exact hs
  | cons w l ih => exact ih (hs.runSteps P _)

theorem cachePort (hs : RecordsInRange s) (k : PortId) (byte : Byte) : RecordsInRange (s.cachePort k byte) where
  pins p := by
    rw [State.pin_cachePort]
    split
    next => exact .of_cache_le_one (hs.pins p).modeAllowed (bitValue_toNat_le _)
    next => exact hs.pins p
  ports k' := by rw [State.port_cachePort]; exact hs.ports k'

theorem pinWrite (hs : RecordsInRange s) (P : Params) (p : PinId) (v : Level) : RecordsInRange (s.pinWrite P p v) := by
  rw [State.pinWrite_spec]
  split
  next => exact (hs.setCache_le_one p (bitValue_toNat_le v)).runSteps P _
  next => exact hs

theorem acceptMode (hs : RecordsInRange s) {p : PinId} {m : Mode} (hm : m ∈ Config.allowed p) :
    RecordsInRange (s.acceptMode Config.hw p m) := by
  have hpin : RecordsInRange (s.setPin p { currentMode := m, cachedValue := initialCache m }) :=
    hs.setPin (.of_cache_le_one hm (initialCache_toNat_le m))
  have hrecords : RecordsInRange (s.acceptModeRecords Config.hw p m) := hpin.setPort (maskInRange_setInput hm (hpin.ports _))
  rw [State.acceptMode_eq]
  exact hrecords.runSteps _ _

theorem setmode (hs : RecordsInRange s) (p : PinId) (mode : Nat) : RecordsInRange (s.setmode Config.hw p mode) := by
  unfold State.setmode
  split
  next => exact hs
  next =>
    split
    next => exact hs.setCache_le_one p (by decide)
    next m _ =>
      split
      next hm => exact hs.acceptMode hm
      next => exact hs

/-- `SAMPD` writes the port's last value sent and no mask (R178). -/
theorem sampd (hs : RecordsInRange s) (P : Params) (k : PortId) (force : Bool) : RecordsInRange (s.sampd P k force) := by
  have hread : RecordsInRange (s.portRead P k) := hs.of_records_eq rfl rfl
  rw [State.sampd_spec]
  split
  next =>
    split
    next =>
      have hemitted : RecordsInRange ((s.portRead P k).emitDigital k (s.portSample k)) := hread.of_records_eq rfl rfl
      exact hemitted.setPort (r := { s.port k with previousSentValue := s.portSample k }) (hs.ports k)
    next => exact hread
  next => exact hs

/-- `SAMPA` caches a sample of `AW` bits, for an analog pin (R10, R179). -/
theorem sampa (hs : RecordsInRange s) (c : ChanId) : RecordsInRange (s.sampa Config.hw c) := by
  have hpin : (analogPin c).val ≤ 15 := Nat.le_of_lt_succ c.isLt
  have hcached : RecordsInRange (s.setCache (analogPin c) (s.asampleValue Config.hw)) :=
    hs.setPin
      { modeAllowed := (hs.pins _).modeAllowed
        digitalCache := fun h16 => absurd h16 (by omega)
        analogCache := fun _ => s.asampleValue_lt Config.hw }
  rw [State.sampa_spec]
  dsimp only
  split
  all_goals exact hcached.of_records_eq rfl rfl

/-- `RESET` derives records in range from modes in their capabilities (R172, R173). -/
theorem resetAlgorithm (hbanks : BanksAtRest Config.hw s) : RecordsInRange (s.resetAlgorithm Config.hw) where
  pins p := by rw [State.pin_resetAlgorithm]; exact pinInRange_reset p _
  ports k := by rw [State.port_resetAlgorithm]; exact maskInRange_reset (hbanks _).modeInCapability

theorem of_commandEffect {i : Instr} (hs : RecordsInRange s) (hbanks : BanksAtRest Config.hw s) (h : CommandEffect Config.hw s i t) :
    RecordsInRange t := by
  cases h with
  | nothing => exact hs
  | response => exact hs.of_records_eq rfl rfl
  | cfg => exact hs.runSteps _ _
  | wrch => exact hs.runSteps _ _
  | rdd => rw [State.rdd_spec]; exact hs.of_records_eq rfl rfl
  | rda => rw [State.rda_spec]; exact hs.of_records_eq rfl rfl
  | reset => exact resetAlgorithm hbanks
  | setmode => exact hs.setmode _ _
  | wrport => exact (hs.cachePort _ _).wrchAll _ _
  | wrpin => exact hs.pinWrite _ _ _
  | sampd => exact hs.sampd _ _ _
  | sampa => exact hs.sampa _
  | repd => exact hs.setPort (hs.ports _)
  | repa => exact hs.of_records_eq rfl rfl

end RecordsInRange

/-! ### The invariant -/

/-- The power-on mode of every bank is in its capability (R8). -/
theorem bankModeInit_mem_bankCap (b : BankId) : Config.hw.bankModeInit b ∈ Config.hw.bankCap b := by
  revert b; decide

/-- The power-on sequence ends in a state that meets the invariant, whatever the state before it (R241). -/
theorem inv_powerOn (u : State) : Inv (u.powerOn Config.hw) := by
  have hregisters : BanksAtRest Config.hw (u.powerOnRegisters Config.hw) := fun b => by
    rw [State.bank_powerOnRegisters]; exact ⟨rfl, rfl, bankModeInit_mem_bankCap b⟩
  have hrecords : RecordsInRange ((u.powerOnRegisters Config.hw).resetAlgorithm Config.hw) := .resetAlgorithm hregisters
  exact (inv_iff _).mpr ⟨BanksAtRest.powerOn bankModeInit_mem_bankCap u, hrecords.of_records_eq rfl rfl, rfl⟩

/-- Settles O37: the reset state is what the power-on sequence makes of itself. -/
theorem boundaryInvariantHoldsAtReset : Obligations.BoundaryInvariantHoldsAtReset := by
  have hreset : State.reset.powerOn Config.hw = State.reset := State.powerOn_spec State.reset Config.hw
  have hinv : Inv (State.reset.powerOn Config.hw) := inv_powerOn State.reset
  rwa [hreset] at hinv

/-- Settles O38: the banks stay at rest by `BanksAtRest.of_stepWith`; the pin and port records and `CMD_READY` by what a step can be. -/
theorem everyStepKeepsBoundaryInvariant : Obligations.EveryStepKeepsBoundaryInvariant := by
  intro s t hs h
  obtain ⟨hbanks, hrecords, hready⟩ := (inv_iff s).mp hs
  have hbanks' : BanksAtRest Config.hw t := hbanks.of_stepWith bankModeInit_mem_bankCap ((step_eq_stepWith s).symm.trans h)
  obtain ⟨-, rfl⟩ | ⟨w, rest, -, -, hrun⟩ | ⟨-, u, rfl⟩ := State.runInput_cases h
  · exact (inv_iff _).mpr ⟨hbanks', hrecords.of_records_eq rfl rfl, hready⟩
  · have hstart : RecordsInRange ({ s with input := rest } : State).accept := hrecords.of_records_eq rfl rfl
    have hbanksStart : BanksAtRest Config.hw ({ s with input := rest } : State).accept := hbanks.of_banks_eq rfl
    obtain ⟨-, -, rfl⟩ | ⟨i, u, -, hexec, rfl⟩ := State.runWord_cases hrun
    · exact (inv_iff _).mpr ⟨hbanks', hstart.of_records_eq rfl rfl, rfl⟩
    · have hran := hstart.of_commandEffect hbanksStart (.of_exec hexec)
      exact (inv_iff _).mpr ⟨hbanks', hran.of_records_eq rfl rfl, rfl⟩
  · exact inv_powerOn u

end Sys2Proof.Machine
end

section
/-! PROOFS. What the line steps make of a bank's record and of an attached bank, and when an attached bank keeps holding the block's
frame (spec 40_bank_driver.md R123, R131, R132). -/

namespace Sys2Proof.Machine

/-! ### A bank's record after line steps -/

/-- What a line step makes of the record of bank `b`: a step of another bank, of a bus or of a sample makes nothing of it. -/
def LineStep.onBank (b : BankId) (r : Bank) : LineStep → Bank
  | .setMode b' m => if b = b' then { r with mode := m } else r
  | .setShadow b' c v => if b = b' then { r with shadow := setBit r.shadow c.val v } else r
  | .outMode b' v => if b = b' then { r with outMode := v } else r
  | .dataOut b' v => if b = b' then { r with dataOut := v } else r
  | .sclk b' v => if b = b' then { r with sclk := v } else r
  | .latch _ _ | .address _ _ | .sample _ | .asample _ => r

section LineSteps

variable (s : State) (P : Params) (b : BankId)

theorem State.bank_drive (st : LineStep) : (s.drive P st).bank b = st.onBank b (s.bank b) := by
  have happly : (s.apply P st).bank b = st.onBank b (s.bank b) := by
    cases st with
    | setMode b' m | setShadow b' c v | outMode b' v | dataOut b' v =>
      simp only [State.apply, State.bank_setBank, LineStep.onBank]
      split
      next e => rw [e]
      next => rfl
    | sclk b' v =>
      simp only [State.apply, State.bank_driveSclk, State.bank_setBank, LineStep.onBank]
      split
      next e => rw [e]
      next => rfl
    | latch x v => exact s.bank_driveAddr P x _ b
    | address x c => exact s.bank_driveAddr P x _ b
    | sample b' => exact s.bank_sampleTaken b
    | asample b' => exact s.bank_asampleTaken b
  exact happly

theorem State.bank_runSteps (l : List LineStep) : (s.runSteps P l).bank b = l.foldl (LineStep.onBank b) (s.bank b) := by
  induction l generalizing s with
  | nil => rfl
  | cons st l ih => rw [State.runSteps_cons, ih, State.bank_drive, List.foldl_cons]

/-- The records after a `WRCH`, whatever the clock was before it: the shadow has its bit, flag and clock are 0, `DATA_OUT` holds the last
bit shifted, and no other bank's record has changed (R123). -/
theorem State.bank_wrch (c : ChanId) (v : Level) (b' : BankId) :
    (s.wrch P b c v).bank b' =
      if b' = b then
        { mode := (s.bank b).mode, shadow := setBit (s.bank b).shadow c.val v, outMode := false
          dataOut := (setBit (s.bank b).shadow c.val v).getLsbD 0, sclk := false }
      else s.bank b' := by
  rw [State.wrch, State.bank_runSteps]
  by_cases hb : b' = b
  · subst hb
    simp [wrchSteps, shiftFrame, frameOrder, shiftBit, LineStep.onBank]
  · simp [wrchSteps, shiftFrame, frameOrder, shiftBit, LineStep.onBank, hb]

end LineSteps

/-! ### An attached bank after line steps that do not shift it -/

/-- From `r` to `r'` the attached bank has kept what it holds, or committed it (R131). -/
def Attached.KeptOrCommitted (r r' : Attached) : Prop := r' = r ∨ r' = { r with q := r.sr }

section Attached

variable (s : State) (P : Params) (b : BankId)

theorem State.att_driveAddr (x : Bus) (a : BitVec 4) : (s.att b).KeptOrCommitted ((s.driveAddr P x a).att b) := by
  unfold State.driveAddr
  split
  next =>
    rw [State.att_commit, State.att_putAddr]
    split
    next => exact .inr rfl
    next => exact .inl rfl
  next => exact .inl (State.att_putAddr s x a b)

/-- A clock edge reaches the attached bank of its own line only (R131). -/
theorem State.att_driveSclk_of_ne {b' : BankId} (v : Level) (h : b ≠ b') : (s.driveSclk b' v).att b = s.att b := by
  simp only [State.driveSclk]
  split
  next =>
    unfold State.shiftIn
    split
    next => rw [State.att_setAtt, if_neg h, State.att_setBank]
    next =>
      refine (State.att_setAtt _ b' b _).trans ?_
      rw [if_neg h, State.att_setBank]
  next => exact State.att_setBank ..

/-- A clock driven low makes no edge (R131). -/
theorem State.att_driveSclk_low (b' : BankId) : (s.driveSclk b' false).att b = s.att b := by
  simp [State.driveSclk]

/-- A line step that raises no clock of the bank makes it commit at most (R131). -/
theorem State.att_drive {st : LineStep} (hst : shiftedBank st ≠ some b) : (s.att b).KeptOrCommitted ((s.drive P st).att b) := by
  have happly : (s.att b).KeptOrCommitted ((s.apply P st).att b) := by
    cases st with
    | setMode b' m | setShadow b' c v | outMode b' v | dataOut b' v => exact .inl (State.att_setBank ..)
    | latch x v => exact s.att_driveAddr P b x _
    | address x c => exact s.att_driveAddr P b x _
    | sclk b' v =>
      cases v with
      | true => exact .inl (s.att_driveSclk_of_ne b true fun e => hst (congrArg some e.symm))
      | false => exact .inl (s.att_driveSclk_low b b')
    | sample b' => exact .inl (State.att_congr (by simp only [State.apply, State.sampleTaken]; split <;> rfl) b)
    | asample b' => exact .inl (State.att_congr (by simp only [State.apply, State.asampleTaken]; split <;> rfl) b)
  exact happly

theorem Attached.KeptOrCommitted.trans {r r' r'' : Attached} (h : r.KeptOrCommitted r') (h' : r'.KeptOrCommitted r'') :
    r.KeptOrCommitted r'' := by
  rcases h with rfl | rfl
  · exact h'
  · exact h'.elim .inr .inr

theorem State.att_runSteps {l : List LineStep} (hl : ∀ st ∈ l, shiftedBank st ≠ some b) :
    (s.att b).KeptOrCommitted ((s.runSteps P l).att b) := by
  induction l generalizing s with
  | nil => exact .inl rfl
  | cons st l ih =>
    rw [List.forall_mem_cons] at hl
    exact (s.att_drive P b hl.1).trans (ih _ hl.2)

/-- A `WRCH` raises the clock of its own bank only (R123). -/
theorem shiftedBank_wrchSteps_ne {b' : BankId} (h : b' ≠ b) (c : ChanId) (v : Level) (sh : Frame) :
    ∀ st ∈ wrchSteps P b' c v sh, shiftedBank st ≠ some b := by
  simp [wrchSteps, shiftFrame, frameOrder, shiftBit, shiftedBank, h]

theorem State.att_wrch_of_ne {b' : BankId} (h : b' ≠ b) (c : ChanId) (v : Level) :
    (s.att b).KeptOrCommitted ((s.wrch P b' c v).att b) :=
  s.att_runSteps P b (shiftedBank_wrchSteps_ne P b h c v _)

/-- A `CFG` moves no clock and no latch line (R121). -/
theorem State.att_cfg (b' : BankId) (m : Mode) : (s.cfg P b' m).att b = s.att b := by
  rw [State.cfg_spec]
  split <;> rfl

/-- An address presented for a read makes the banks of its bus commit at most (R126, R128, R131). -/
theorem State.att_addressed (b' : BankId) (c : ChanId) : (s.att b).KeptOrCommitted ((s.addressed P b' c).att b) := by
  simp only [State.addressed, State.att, Vector.getElem_ofFn]
  split
  next => exact .inr rfl
  next => exact .inl rfl

theorem State.att_setmode (p : PinId) (mode : Nat) : (s.setmode P p mode).att b = s.att b := by
  unfold State.setmode
  split
  next => rfl
  next =>
    split
    next => rfl
    next m _ =>
      split
      next => rw [State.acceptMode_eq, State.att_cfg]; rfl
      next => rfl

end Attached

/-- A command that writes no shadow shifts no bank: an attached bank keeps what it holds or commits it (R131, R132 (iii)). -/
theorem CommandEffect.att_of_not_mayWriteShadow {P : Params} {s t : State} {i : Instr} (h : CommandEffect P s i t)
    (hi : mayWriteShadow i = false) (b : BankId) : (s.att b).KeptOrCommitted (t.att b) := by
  cases h with
  | nothing | response | repd | repa => exact .inl rfl
  | cfg => exact .inl (s.att_cfg P b _ _)
  | rdd => rw [State.rdd_spec]; exact s.att_addressed P b _ _
  | rda => rw [State.rda_spec]; exact s.att_addressed P b _ _
  | reset => exact .inl (s.att_resetAlgorithm P b)
  | setmode => exact .inl (s.att_setmode P b _ _)
  | sampd =>
    rw [State.sampd_spec]
    split
    next =>
      split
      all_goals exact s.att_addressed P b _ _
    next => exact .inl rfl
  | sampa =>
    rw [State.sampa_spec]
    dsimp only
    split
    all_goals exact s.att_addressed P b _ _
  | wrch | wrport | wrpin => cases hi

/-! ### An attached bank that holds the block's frame (R132 (ii)) -/

/-- A commit of a bank that holds the block's frame gives it the frame it shows already. -/
theorem Synced.of_keptOrCommitted {s t : State} {b : BankId} (hs : Synced s b) (hshadow : (t.bank b).shadow = (s.bank b).shadow)
    (hatt : (s.att b).KeptOrCommitted (t.att b)) : Synced t b := by
  obtain ⟨hsr, hq⟩ := hs
  unfold Synced
  rcases hatt with h | h <;> rw [h, hshadow]
  · exact ⟨hsr, hq⟩
  · exact ⟨hsr, rfl⟩

/-- A `WRCH` on a driven bank whose clock is low syncs the bank, whatever it held before (R123, R132 (ii)). -/
theorem Synced.of_wrch {s : State} {P : Params} {b : BankId} (hclock : (s.bank b).sclk = false) (hmode : (s.bank b).mode = .digitalOut)
    (c : ChanId) (v : Level) : Synced (s.wrch P b c v) b := by
  obtain ⟨x, hx, h⟩ := s.wrch_spec P b c v hclock
  have hframe : x = setBit (s.bank b).shadow c.val v := hx (by rw [State.dataDir, hmode]; rfl)
  have hatt : (s.wrch P b c v).att b = { sr := x, q := x } := by rw [h]; simp [State.att, State.framed]
  unfold Synced
  rw [hatt, State.bank_wrch, if_pos rfl]
  exact ⟨hframe, rfl⟩

/-- A driven bank at rest that holds the block's frame: what a run of writes, on this bank or on others, keeps. -/
structure DrivenSynced (s : State) (b : BankId) : Prop where
  sclkLow : (s.bank b).sclk = false
  driven : (s.bank b).mode = .digitalOut
  synced : Synced s b

namespace DrivenSynced

variable {s : State} {b : BankId}

theorem wrch (hs : DrivenSynced s b) (P : Params) (b' : BankId) (c : ChanId) (v : Level) : DrivenSynced (s.wrch P b' c v) b := by
  by_cases hb : b' = b
  · subst hb
    have hbank := s.bank_wrch P b' c v b'
    rw [if_pos rfl] at hbank
    exact ⟨by rw [hbank], by rw [hbank]; exact hs.driven, .of_wrch hs.sclkLow hs.driven c v⟩
  · have hbank : (s.wrch P b' c v).bank b = s.bank b := by rw [State.bank_wrch, if_neg (Ne.symm hb)]
    exact ⟨by rw [hbank, hs.sclkLow], by rw [hbank, hs.driven],
      hs.synced.of_keptOrCommitted (by rw [hbank]) (s.att_wrch_of_ne P b hb c v)⟩

theorem wrchAll (hs : DrivenSynced s b) (P : Params) (l : List Write) : DrivenSynced (s.wrchAll P l) b := by
  induction l generalizing s with
  | nil => exact hs
  | cons w l ih => exact ih (hs.wrch P w.1 w.2.1 w.2.2)

theorem of_lines_eq {t : State} (hs : DrivenSynced s b) (hbanks : t.banks = s.banks) (hatt : t.attached = s.attached) :
    DrivenSynced t b := by
  have hbank : t.bank b = s.bank b := State.bank_congr hbanks b
  exact ⟨by rw [hbank, hs.sclkLow], by rw [hbank, hs.driven],
    hs.synced.of_keptOrCommitted (by rw [hbank]) (.inl (State.att_congr hatt b))⟩

theorem pinWrite (hs : DrivenSynced s b) (P : Params) (p : PinId) (v : Level) : DrivenSynced (s.pinWrite P p v) b := by
  rw [State.pinWrite_spec]
  split
  next =>
    have hcache : DrivenSynced (s.setCache p (bitValue v)) b := hs.of_lines_eq rfl rfl
    exact hcache.wrch P _ _ v
  next => exact hs

end DrivenSynced

/-- A bank that holds the block's frame holds it after any command under the proviso of R132: the bank is driven with its clock low, or
the command writes no shadow. -/
theorem Synced.of_execWith {P : Params} {s t : State} {i : Instr} {b : BankId} (hs : Synced s b) (hclock : (s.bank b).sclk = false)
    (hproviso : (s.bank b).mode = .digitalOut ∨ mayWriteShadow i = false) (h : execWith P i s = .next t) : Synced t b := by
  have heffect := CommandEffect.of_execWith h
  by_cases hi : mayWriteShadow i = false
  · exact hs.of_keptOrCommitted ((WritesOnlyItsRecords.of_execWith h).shadow hi b) (heffect.att_of_not_mayWriteShadow hi b)
  · have hdriven : DrivenSynced s b := ⟨hclock, hproviso.resolve_right hi, hs⟩
    cases heffect with
    | wrch => exact (hdriven.wrch P _ _ _).synced
    | wrpin => exact (hdriven.pinWrite P _ _).synced
    | @wrport _ byte k _ =>
      have hcache : DrivenSynced (s.cachePort k byte) b :=
        hdriven.of_lines_eq (s.banks_cachePort k byte) (s.attached_cachePort k byte)
      exact (hcache.wrchAll P _).synced
    | nothing | response => exact hs
    | cfg | rdd | rda | reset | setmode | sampd | sampa | repd | repa => exact absurd rfl hi

/-- Settles O39: acceptance and completion move no line, so it is a fact of the command in between; a reserved opcode runs none. -/
theorem syncedBankStaysSynced : Obligations.SyncedBankStaysSynced := by
  intro s t b w rest hclock hs hready hinput hproviso h
  have hrun : ({ s with input := rest } : State).runWord exec w = .next t :=
    (State.runInput_command Config.hw hready hinput).symm.trans h
  have hstart : Synced ({ s with input := rest } : State).accept b := hs
  obtain ⟨-, -, rfl⟩ | ⟨i, u, hdecode, hexec, rfl⟩ := State.runWord_cases hrun
  · exact hs
  · have hproviso' : (s.bank b).mode = .digitalOut ∨ mayWriteShadow i = false := hproviso.imp_right fun hw => hw i hdecode
    rw [exec_eq_execWith] at hexec
    have hran : Synced u b := hstart.of_execWith hclock hproviso' hexec
    exact hran

end Sys2Proof.Machine
end

section
/-! PROOFS. The record of line steps after a command (spec 20_memory.md R72; 40_bank_driver.md R136; 42_pin_port_state_machine.md
R170). -/

namespace Sys2Proof.Machine

section Trace

variable (s : State) (P : Params)

theorem State.trace_runSteps (l : List LineStep) : (s.runSteps P l).trace = s.trace ++ l := (s.runSteps_other P l).1

theorem State.trace_cfg (b : BankId) (m : Mode) : (s.cfg P b m).trace = s.trace ++ cfgSteps P b m := s.trace_runSteps P _

theorem State.trace_wrch (b : BankId) (c : ChanId) (v : Level) :
    (s.wrch P b c v).trace = s.trace ++ wrchSteps P b c v (s.bank b).shadow := s.trace_runSteps P _

/-- Each write of a run finds in its bank's shadow what the writes before it have left there (R176). -/
theorem State.trace_wrchAll (l : List Write) :
    (s.wrchAll P l).trace = s.trace ++ wrchAllSteps P l fun b => (s.bank b).shadow := by
  induction l generalizing s with
  | nil => simp [State.wrchAll, wrchAllSteps]
  | cons w l ih =>
    obtain ⟨b, c, v⟩ := w
    have hshadow : (fun b' => ((s.wrch P b c v).bank b').shadow) =
        fun b' => if b' = b then setBit (s.bank b).shadow c.val v else (s.bank b').shadow := by
      funext b'
      rw [State.bank_wrch]
      split <;> rfl
    rw [State.wrchAll, ih, State.trace_wrch, hshadow, wrchAllSteps, List.append_assoc]

theorem State.trace_pinWrite (p : PinId) (v : Level) : (s.pinWrite P p v).trace = s.trace ++ s.pinWriteSteps P p v := by
  unfold State.pinWrite State.pinWriteSteps
  split
  next => simp
  next =>
    split
    next => simp
    next => rw [State.trace_wrch, State.trace_setCache, State.bank_setCache]

theorem State.trace_acceptMode (p : PinId) (m : Mode) : (s.acceptMode P p m).trace = s.trace ++ s.acceptModeSteps P p m := by
  have hcfg : ((s.acceptModeRecords P p m).cfg P (bankOf P p) m).trace = s.trace ++ cfgSteps P (bankOf P p) m :=
    State.trace_cfg _ P _ m
  unfold State.acceptMode State.acceptModeSteps
  split
  next => rw [State.trace_pinWrite, hcfg, List.append_assoc]
  next => rw [hcfg, List.append_nil]

theorem State.trace_setmode (p : PinId) (mode : Nat) : (s.setmode P p mode).trace = s.trace ++ s.setmodeSteps P p mode := by
  unfold State.setmode State.setmodeSteps
  split
  next => simp
  next =>
    cases modeOperand mode with
    | none => exact (List.append_nil s.trace).symm
    | some m =>
      dsimp only
      split
      next => exact s.trace_acceptMode P p m
      next => exact (List.append_nil s.trace).symm

theorem State.trace_sampd (k : PortId) (force : Bool) :
    (s.sampd P k force).trace = s.trace ++ if (s.port k).reportEnabled then portReadSteps P k else [] := by
  rw [State.sampd_spec]
  split
  next =>
    split
    all_goals rfl
  next => simp

theorem State.trace_sampa (c : ChanId) : (s.sampa P c).trace = s.trace ++ rdaSteps P analogBank c := by
  rw [State.sampa_spec]
  dsimp only
  split
  all_goals rfl

end Trace

theorem CommandEffect.trace_eq {P : Params} {s t : State} {i : Instr} (h : CommandEffect P s i t) :
    t.trace = s.trace ++ lineSteps P i s := by
  cases h with
  | nothing hsteps => rw [hsteps, List.append_nil]
  | response hsteps => rw [hsteps, List.append_nil, State.trace_respond]
  | cfg hbank hmode => simp only [lineSteps, hbank, hmode, State.trace_cfg]
  | wrch hbank hchan => simp only [lineSteps, hbank, hchan, State.trace_wrch]
  | rdd hbank hchan => simp only [lineSteps, hbank, hchan, State.trace_respond, State.rdd_spec]
  | rda hbank hchan => simp only [lineSteps, hbank, hchan, State.trace_respond, State.rda_spec]
  | reset => simp only [lineSteps, State.trace_resetAlgorithm, List.append_nil]
  | setmode hpin => simp only [lineSteps, hpin, State.trace_setmode]
  | wrport hport => simp only [lineSteps, hport, State.trace_wrchAll, State.trace_cachePort, State.bank_cachePort]
  | wrpin hpin => simp only [lineSteps, hpin, State.trace_pinWrite]
  | sampd hport => simp only [lineSteps, hport, State.trace_sampd]
  | sampa hpin => simp only [lineSteps, hpin, State.trace_sampa]
  | repd => simp only [lineSteps, State.trace_setPort, List.append_nil]
  | repa => simp only [lineSteps, List.append_nil]

/-- Settles O20, by what a command can do. -/
theorem commandPerformsItsLineSteps : Obligations.CommandPerformsItsLineSteps := fun _ _ _ h =>
  (CommandEffect.of_exec h).trace_eq

end Sys2Proof.Machine
end

section
/-! PROOFS. The Bank Driver's commands, one by one (spec 40_bank_driver.md R121 to R129, R136). -/

namespace Sys2Proof.Machine

/-! ### `CFG` (R121) -/

/-- Operands no bank's capability holds: one of them is out of range, or the bank rejects the mode (R121). -/
theorem cfg_rejected {bank mode : Nat}
    (h : ∀ (b : BankId) (m : Mode), bank = bankNumber b → mode = (modeCode m).toNat → m ∉ Config.bankCap b) :
    bankOperand bank = none ∨ modeOperand mode = none ∨
      ∃ b m, bankOperand bank = some b ∧ modeOperand mode = some m ∧ m ∉ Config.hw.bankCap b := by
  cases hbank : bankOperand bank with
  | none => exact .inl rfl
  | some b =>
    cases hmode : modeOperand mode with
    | none => exact .inr (.inl rfl)
    | some m => exact .inr (.inr ⟨b, m, rfl, rfl, h b m (bankNumber_of_bankOperand hbank) (code_of_modeOperand hmode)⟩)

theorem exec_cfg (s : State) (b : BankId) (m : Mode) :
    exec (.cfg (bankNumber b) (modeCode m).toNat) s = .next (s.cfg Config.hw b m) := by
  rw [exec_eq_execWith, execWith, execCfgWith, bankOperand_number, modeOperand_code]

/-- Settles O11: within the capability by `State.cfg_spec`, and `cfg_rejected` lists the other operands. -/
theorem cfgWritesModeWithinCapability : Obligations.CfgWritesModeWithinCapability := by
  refine ⟨fun a b c => decode_mkWord .cfg a b c, fun s b m hm => ?_, fun s bank mode h => ?_⟩
  · rw [exec_cfg, State.cfg_spec, hw_bankCap, if_pos hm]
    rfl
  · rw [exec_eq_execWith, execWith, execCfgWith]
    obtain hbank | hmode | ⟨b, m, hbank, hmode, hcap⟩ := cfg_rejected h
    · rw [hbank]
    · rw [hmode]
      cases bankOperand bank <;> rfl
    · simp only [hbank, hmode, State.cfg_spec, if_neg hcap]

/-! ### The lines of a mode (R122) -/

theorem State.dataDir_eq (s : State) (b : BankId) : s.dataDir b = decide ((s.bank b).mode = .digitalOut) := by
  unfold State.dataDir dataDirOf
  cases (s.bank b).mode <;> rfl

theorem State.dataPu_eq (s : State) (b : BankId) : s.dataPu b = decide ((s.bank b).mode = .digitalInPullup) := by
  unfold State.dataPu dataPuOf
  cases (s.bank b).mode <;> rfl

/-- A bank with a select line can be in no output mode on this hardware (R8, R122). -/
theorem mode_ne_digitalOut_of_hasSelect {s : State} (hs : Inv s) {b : BankId} (hb : bankNumber b ≤ 3) :
    (s.bank b).mode ≠ .digitalOut := by
  intro hmode
  have hcap := hs.modeInCapability b
  rw [hmode, mem_bankCap_iff] at hcap
  rcases hcap with h | ⟨-, h⟩ | ⟨-, -, h | h⟩ | ⟨h6, -⟩
  · cases h
  · cases h
  · cases h
  · cases h
  · omega

/-- Settles O12: the table mode by mode; `SEL` would be high only in a mode no bank with a select line can be in. -/
theorem modeDrivesSelectDirectionAndPullup : Obligations.ModeDrivesSelectDirectionAndPullup := by
  refine ⟨fun s b => ⟨s.dataDir_eq b, s.dataPu_eq b, s.sel_eq b⟩, fun s hs b => ?_⟩
  rw [State.sel_eq]
  split
  next hb => simpa using mode_ne_digitalOut_of_hasSelect hs hb
  next => exact nofun

/-! ### `WRCH` (R123 to R125) -/

/-- Channels 15 down to 0, as a range. -/
theorem frameOrder_eq : frameOrder = (List.range 16).map fun j => 15 - j := by decide

/-- Settles O13: the same list, with the channels written as a range. -/
theorem wrchStepsAreOneFrameAndOneLatchPulse : Obligations.WrchStepsAreOneFrameAndOneLatchPulse := by
  intro P b c v sh
  rw [wrchSteps, shiftFrame, frameOrder_eq, List.flatMap_map]
  rfl

theorem exec_wrch (s : State) (b : BankId) (c : ChanId) (v : Nat) :
    exec (.wrch (bankNumber b) c.val v) s = .next (s.wrch Config.hw b c (v != 0)) := by
  rw [exec_eq_execWith, execWith, execWrchWith, bankOperand_number, chanOperand_val]
  rfl

/-- Settles O40: the write syncs the bank by `Synced.of_wrch`. -/
theorem drivenWriteSyncsBank : Obligations.DrivenWriteSyncsBank := fun s b c v hclock hmode =>
  ⟨s.wrch Config.hw b c (v != 0), exec_wrch s b c v, .of_wrch hclock hmode c (v != 0)⟩

/-- A bank or channel out of range, in the order the checks find it (R120). -/
theorem operands_out_of_range {bank chan : Nat} (h : bank = 0 ∨ 6 < bank ∨ 15 < chan) :
    bankOperand bank = none ∨ ∃ b, bankOperand bank = some b ∧ chanOperand chan = none := by
  cases hbank : bankOperand bank with
  | none => exact .inl rfl
  | some b =>
    have hrange := bankNumber_range b
    rw [← bankNumber_of_bankOperand hbank] at hrange
    exact .inr ⟨b, rfl, chanOperand_none (by omega)⟩

/-- Settles O14: `State.wrch_spec`, with the steps as O13 lists them. -/
theorem wrchShiftsAndCommitsFrame : Obligations.WrchShiftsAndCommitsFrame := by
  refine ⟨fun a b c => decode_mkWord .wrch a b c, fun s b c v hclock => ?_, fun s bank chan v h => ?_⟩
  · obtain ⟨x, hx, hwrch⟩ := s.wrch_spec Config.hw b c (v != 0) hclock
    rw [State.dataDir_eq, wrchStepsAreOneFrameAndOneLatchPulse] at hwrch
    simp only [decide_eq_true_eq] at hwrch
    refine ⟨x, fun hmode => hx (by rw [State.dataDir_eq, hmode]; rfl), ?_⟩
    rw [exec_wrch, hwrch]
  · rw [exec_eq_execWith, execWith, execWrchWith]
    obtain hbank | ⟨b, hbank, hchan⟩ := operands_out_of_range h
    · rw [hbank]
    · rw [hbank, hchan]

/-! ### `RDD` and `RDA` (R126 to R128) -/

theorem State.respondSentinel_eq (s : State) : s.respondSentinel = { s with rsp := s.rsp ++ [0x1FFFFFFFF] } := rfl

/-- A response without error is its value (R96). -/
theorem rspWord_false (value : BitVec 32) : rspWord false value = value.setWidth 33 := by
  apply BitVec.eq_of_toNat_eq
  have happend : (rspWord false value).toNat = (BitVec.ofBool false).toNat <<< 32 ||| value.toNat := BitVec.toNat_append ..
  rw [happend, BitVec.toNat_setWidth_of_le (by decide)]
  simp

/-- The response to `RDD` is the inverse of the level (R127). -/
theorem rspWord_inverted (raw : Level) : rspWord false (BitVec.zeroExtend 32 (bitValue (!raw))) = if raw then 0 else 1 := by
  cases raw <;> rfl

/-- The response to `RDA` is the raw sample (R128). -/
theorem rspWord_sample (v : Frame) : rspWord false (BitVec.zeroExtend 32 v) = v.setWidth 33 := by
  rw [rspWord_false]
  apply BitVec.eq_of_toNat_eq
  simp only [BitVec.toNat_setWidth]
  omega

/-- Settles O15: `State.rdd_spec` and the word of the response. -/
theorem rddRespondsWithInvertedSample : Obligations.RddRespondsWithInvertedSample := by
  refine ⟨fun a b c => decode_mkWord .rdd a b c, fun s b c => ?_, fun s bank chan h => ?_⟩
  · rw [exec_eq_execWith, execWith, execRddWith, bankOperand_number, chanOperand_val]
    simp only [State.rdd_spec, State.respond, rspWord_inverted]
    rfl
  · rw [exec_eq_execWith, execWith, execRddWith, ← State.respondSentinel_eq]
    obtain hbank | ⟨b, hbank, hchan⟩ := operands_out_of_range h
    · rw [hbank]
    · rw [hbank, hchan]

/-- Settles O16: `State.rda_spec`, the bound of a sample and the word of the response. -/
theorem rdaRespondsWithRawSample : Obligations.RdaRespondsWithRawSample := by
  refine ⟨fun a b c => decode_mkWord .rda a b c, fun s b c => ?_, fun s bank chan h => ?_⟩
  · refine ⟨_, rfl, s.asampleValue_lt Config.hw, ?_⟩
    rw [exec_eq_execWith, execWith, execRdaWith, bankOperand_number, chanOperand_val]
    simp only [State.rda_spec, State.respond, rspWord_sample]
    rfl
  · rw [exec_eq_execWith, execWith, execRdaWith, ← State.respondSentinel_eq]
    obtain hbank | ⟨b, hbank, hchan⟩ := operands_out_of_range h
    · rw [hbank]
    · rw [hbank, hchan]

/-! ### `QBANK` (R129) -/

section BankResponse

variable (r : Bank)

/-! The four fields of the response, from the lowest (R129). -/

theorem bankResponse_shadow : (rspWord false (bankRecordValue r)).extractLsb' 0 16 = r.shadow := by
  rw [rspWord, BitVec.extractLsb'_append_eq_of_add_le (by decide), bankRecordValue, BitVec.extractLsb'_append_eq_right]

theorem bankResponse_mode : (rspWord false (bankRecordValue r)).extractLsb' 16 3 = modeCode r.mode := by
  rw [rspWord, BitVec.extractLsb'_append_eq_of_add_le (by decide), bankRecordValue,
    BitVec.extractLsb'_append_eq_of_le (by decide), BitVec.extractLsb'_append_eq_right]

theorem bankResponse_outMode : (rspWord false (bankRecordValue r)).getLsbD 19 = r.outMode := by
  simp only [rspWord, bankRecordValue, BitVec.getLsbD_append]
  simp

theorem bankResponse_zeros : (rspWord false (bankRecordValue r)).extractLsb' 20 13 = 0 := by
  apply BitVec.eq_of_getLsbD_eq
  intro i hi
  have hshadow : ¬ 20 + i < 16 := by omega
  have hmode : ¬ 20 + i - 16 < 3 := by omega
  have hflag : ¬ 20 + i - 16 - 3 = 0 := by omega
  rw [rspWord, BitVec.getLsbD_extractLsb']
  simp only [BitVec.getLsbD_append, bankRecordValue]
  simp [hshadow, hmode, hflag]

end BankResponse

/-- Settles O17, field by field. -/
theorem qbankRespondsWithBankRecord : Obligations.QbankRespondsWithBankRecord := by
  refine ⟨fun a b c => decode_mkWord .qbank a b c, fun s b => ?_, fun s bank h => ?_⟩
  · refine ⟨rspWord false (bankRecordValue (s.bank b)), ?_, bankResponse_shadow _, bankResponse_mode _,
      bankResponse_outMode _, bankResponse_zeros _⟩
    rw [exec_eq_execWith, execWith, execQbank, bankOperand_number]
    rfl
  · rw [exec_eq_execWith, execWith, execQbank, bankOperand_none h]
    rfl

/-! ### The counts of line steps (R136) -/

/-- Settles O19: the accepted forms by their lists, the rejected ones by the check that fails. -/
theorem lineStepCounts : Obligations.LineStepCounts := by
  refine ⟨fun s b c v => ?_, fun s b m hm => ?_, fun s bank chan v h => ?_, fun s bank mode h => ?_⟩
  · simp only [lineSteps, bankOperand_number, chanOperand_val]
    exact ⟨rfl, rfl, rfl⟩
  · have hcap : m ∈ Config.hw.bankCap b := hm
    simp only [lineSteps, bankOperand_number, modeOperand_code, cfgSteps, if_pos hcap, List.length_singleton]
  · obtain hbank | ⟨b, hbank, hchan⟩ := operands_out_of_range h
    · simp only [lineSteps, hbank, and_self]
    · simp only [lineSteps, hbank, hchan, and_self]
  · obtain hbank | hmode | ⟨b, m, hbank, hmode, hcap⟩ := cfg_rejected h
    · simp only [lineSteps, hbank]
    · simp only [lineSteps, hmode]
      cases bankOperand bank <;> rfl
    · simp only [lineSteps, hbank, hmode, cfgSteps, if_neg hcap]

end Sys2Proof.Machine
end

section
/-! PROOFS. An operation on a bank reaches another bank through the shared lines of its bus only (spec 41_bank_set.md R165;
40_bank_driver.md R131). -/

namespace Sys2Proof.Machine

/-! ### The line steps of one bank -/

/-- The line step is one of bank `b`: on the bank's own lines and registers, or on the bus it shares (R165). -/
def LineStep.IsOf (P : Params) (b : BankId) : LineStep → Prop
  | .setMode b' _ | .setShadow b' _ _ | .outMode b' _ | .dataOut b' _ | .sclk b' _ | .sample b' | .asample b' => b' = b
  | .latch x _ | .address x _ => x = busOf P b

section Lists

variable (P : Params) (b : BankId)

theorem isOf_of_mem_cfgSteps (m : Mode) : ∀ st ∈ cfgSteps P b m, st.IsOf P b := by
  unfold cfgSteps
  split <;> simp [LineStep.IsOf]

theorem isOf_of_mem_wrchSteps (c : ChanId) (v : Level) (sh : Frame) : ∀ st ∈ wrchSteps P b c v sh, st.IsOf P b := by
  simp [wrchSteps, shiftFrame, frameOrder, shiftBit, LineStep.IsOf]

theorem isOf_of_mem_rddSteps (c : ChanId) : ∀ st ∈ rddSteps P b c, st.IsOf P b := by
  simp [rddSteps, presentSteps, LineStep.IsOf]

theorem isOf_of_mem_rdaSteps (c : ChanId) : ∀ st ∈ rdaSteps P b c, st.IsOf P b := by
  simp [rdaSteps, presentSteps, LineStep.IsOf]

end Lists

/-! ### What a line step of one bank leaves of another bank and of the other bus -/

section LineSteps

variable {P : Params} {b b' : BankId} {st : LineStep}

theorem LineStep.IsOf.onBank_of_ne (h : st.IsOf P b) (hb : b' ≠ b) (r : Bank) : st.onBank b' r = r := by
  cases st with
  | setMode d | setShadow d | outMode d | dataOut d | sclk d =>
    obtain rfl : d = b := h
    exact if_neg hb
  | latch | address | sample | asample => rfl

theorem LineStep.IsOf.shiftedBank_ne (h : st.IsOf P b) (hb : b' ≠ b) : shiftedBank st ≠ some b' := by
  cases st with
  | sclk d v =>
    obtain rfl : d = b := h
    cases v with
    | true => exact fun e => hb (Option.some.inj e).symm
    | false => exact nofun
  | setMode | setShadow | outMode | latch | address | dataOut | sample | asample => exact nofun

/-- A bank of the other bus does not see the latch line (R131, R161). -/
theorem State.att_driveAddr_of_busOf_ne (s : State) {x : Bus} (hx : busOf P b' ≠ x) (a : BitVec 4) :
    (s.driveAddr P x a).att b' = s.att b' := by
  unfold State.driveAddr
  split
  next => rw [State.att_commit, if_neg hx, State.att_putAddr]
  next => exact State.att_putAddr s x a b'

theorem State.addr_driveAddr_of_ne (s : State) {x y : Bus} (hy : y ≠ x) (a : BitVec 4) : (s.driveAddr P x a).addr y = s.addr y := by
  have hput : (s.putAddr x a).addr y = s.addr y := by rw [State.addr_putAddr, if_neg hy]
  unfold State.driveAddr
  split
  next => exact hput
  next => exact hput

/-- A clock edge moves no address line (R124). -/
theorem State.addr_driveSclk (s : State) (v : Level) (y : Bus) : (s.driveSclk b v).addr y = s.addr y := by
  simp only [State.driveSclk]
  split
  next =>
    unfold State.shiftIn
    split <;> rfl
  next => rfl

/-! A sample moves no line and reaches no attached bank (R76). -/

theorem State.att_sampleTaken (s : State) (b : BankId) : s.sampleTaken.att b = s.att b := by
  unfold State.sampleTaken
  split <;> rfl

theorem State.att_asampleTaken (s : State) (b : BankId) : s.asampleTaken.att b = s.att b := by
  unfold State.asampleTaken
  split <;> rfl

theorem State.addr_sampleTaken (s : State) (y : Bus) : s.sampleTaken.addr y = s.addr y := by
  unfold State.sampleTaken
  split <;> rfl

theorem State.addr_asampleTaken (s : State) (y : Bus) : s.asampleTaken.addr y = s.addr y := by
  unfold State.asampleTaken
  split <;> rfl

theorem State.att_drive_of_busOf_ne (s : State) (h : st.IsOf P b) (hbus : busOf P b' ≠ busOf P b) :
    (s.drive P st).att b' = s.att b' := by
  have happly : (s.apply P st).att b' = s.att b' := by
    cases st with
    | setMode | setShadow | outMode | dataOut => exact State.att_setBank ..
    | latch x | address x =>
      obtain rfl : x = busOf P b := h
      exact s.att_driveAddr_of_busOf_ne hbus _
    | sclk d v =>
      obtain rfl : d = b := h
      exact s.att_driveSclk_of_ne b' v fun e => hbus (congrArg (busOf P) e)
    | sample => exact s.att_sampleTaken b'
    | asample => exact s.att_asampleTaken b'
  exact happly

theorem State.addr_drive_of_ne (s : State) (h : st.IsOf P b) {y : Bus} (hy : y ≠ busOf P b) : (s.drive P st).addr y = s.addr y := by
  have happly : (s.apply P st).addr y = s.addr y := by
    cases st with
    | setMode | setShadow | outMode | dataOut => exact State.addr_setBank ..
    | latch x | address x =>
      obtain rfl : x = busOf P b := h
      exact s.addr_driveAddr_of_ne hy _
    | sclk d v => exact s.addr_driveSclk v y
    | sample => exact s.addr_sampleTaken y
    | asample => exact s.addr_asampleTaken y
  exact happly

end LineSteps

/-! ### Confinement -/

/-- From `s` to `t` nothing has changed but the registers and lines of bank `b`, the address of its bus, what the banks of that bus
show, and the host-side ports (R165). -/
structure ConfinedTo (P : Params) (b : BankId) (s t : State) : Prop where
  bank : ∀ b', b' ≠ b → t.bank b' = s.bank b'
  att : ∀ b', b' ≠ b → (s.att b').KeptOrCommitted (t.att b')
  attOtherBus : ∀ b', busOf P b' ≠ busOf P b → t.att b' = s.att b'
  addr : ∀ y, y ≠ busOf P b → t.addr y = s.addr y
  pins : t.pins = s.pins
  ports : t.ports = s.ports
  analogReport : t.analogReport = s.analogReport

namespace ConfinedTo

variable {P : Params} {b : BankId} {s t u : State}

theorem refl (s : State) : ConfinedTo P b s s where
  bank _ _ := rfl
  att _ _ := .inl rfl
  attOtherBus _ _ := rfl
  addr _ _ := rfl
  pins := rfl
  ports := rfl
  analogReport := rfl

theorem trans (h : ConfinedTo P b s t) (h' : ConfinedTo P b t u) : ConfinedTo P b s u where
  bank b' hb := (h'.bank b' hb).trans (h.bank b' hb)
  att b' hb := (h.att b' hb).trans (h'.att b' hb)
  attOtherBus b' hbus := (h'.attOtherBus b' hbus).trans (h.attOtherBus b' hbus)
  addr y hy := (h'.addr y hy).trans (h.addr y hy)
  pins := h'.pins.trans h.pins
  ports := h'.ports.trans h.ports
  analogReport := h'.analogReport.trans h.analogReport

theorem drive (s : State) {st : LineStep} (hst : st.IsOf P b) : ConfinedTo P b s (s.drive P st) := by
  obtain ⟨-, -, hpins, hports, hreport, -⟩ := s.drive_other P st
  exact {
    bank := fun b' hb => (s.bank_drive P b' st).trans (hst.onBank_of_ne hb _)
    att := fun b' hb => s.att_drive P b' (hst.shiftedBank_ne hb)
    attOtherBus := fun b' hbus => s.att_drive_of_busOf_ne hst hbus
    addr := fun y hy => s.addr_drive_of_ne hst hy
    pins := hpins
    ports := hports
    analogReport := hreport }

theorem runSteps (s : State) {l : List LineStep} (hl : ∀ st ∈ l, st.IsOf P b) : ConfinedTo P b s (s.runSteps P l) := by
  induction l generalizing s with
  | nil => exact refl s
  | cons st l ih =>
    rw [List.forall_mem_cons] at hl
    exact (drive s hl.1).trans (ih _ hl.2)

/-- A response is on a port of its own (R96). -/
theorem respond (h : ConfinedTo P b s t) (err : Bool) (value : BitVec 32) : ConfinedTo P b s (t.respond err value) :=
  { h with }

/-- The only way to another bank is a commit on a latch edge of the shared bus (R131, R165). -/
theorem frames (h : ConfinedTo P b s t) {b' : BankId} (hb : b' ≠ b) :
    (t.att b').sr = (s.att b').sr ∧
      ((t.att b').q = (s.att b').q ∨ busOf P b' = busOf P b ∧ (t.att b').q = (s.att b').sr) := by
  by_cases hbus : busOf P b' = busOf P b
  · obtain hatt | hatt := h.att b' hb
    · rw [hatt]; exact ⟨rfl, .inl rfl⟩
    · rw [hatt]; exact ⟨rfl, .inr ⟨hbus, rfl⟩⟩
  · rw [h.attOtherBus b' hbus]; exact ⟨rfl, .inl rfl⟩

end ConfinedTo

/-! ### The bank-level commands -/

/-- The bank operand of a bank-level command; the commands on pins and ports have none (R120). -/
def Instr.bankField : Instr → Option Nat
  | .cfg bank _ | .wrch bank _ _ | .rdd bank _ | .rda bank _ | .qbank bank => some bank
  | _ => none

/-- A bank operand that passes the range check names the bank it was made from. -/
theorem eq_of_bankOperand {bank : Nat} {b d : BankId} (hfield : some bank = some (bankNumber b)) (hd : bankOperand bank = some d) :
    d = b := by
  rw [Option.some.inj hfield, bankOperand_number] at hd
  exact (Option.some.inj hd).symm

/-- A command on a bank runs line steps of that bank, and responds at most (R165). -/
theorem CommandEffect.confinedTo {P : Params} {s t : State} {i : Instr} {b : BankId} (h : CommandEffect P s i t)
    (hi : Instr.bankField i = some (bankNumber b)) : ConfinedTo P b s t := by
  cases h with
  | nothing => exact .refl s
  | response => exact (ConfinedTo.refl s).respond _ _
  | cfg hbank =>
    obtain rfl := eq_of_bankOperand hi hbank
    exact .runSteps s (isOf_of_mem_cfgSteps P _ _)
  | wrch hbank =>
    obtain rfl := eq_of_bankOperand hi hbank
    exact .runSteps s (isOf_of_mem_wrchSteps P _ _ _ _)
  | rdd hbank =>
    obtain rfl := eq_of_bankOperand hi hbank
    exact (ConfinedTo.runSteps s (isOf_of_mem_rddSteps P _ _)).respond _ _
  | rda hbank =>
    obtain rfl := eq_of_bankOperand hi hbank
    exact (ConfinedTo.runSteps s (isOf_of_mem_rdaSteps P _ _)).respond _ _
  | reset | setmode | wrport | wrpin | sampd | sampa | repd | repa => cases hi

/-! A valid `CFG` moves no address line and no attached bank, and writes no register of its bank but the mode (R121). -/

theorem State.addr_cfg (s : State) (P : Params) (b : BankId) (m : Mode) (y : Bus) : (s.cfg P b m).addr y = s.addr y := by
  rw [State.cfg_spec]
  split <;> rfl

theorem State.attached_cfg (s : State) (P : Params) (b : BankId) (m : Mode) : (s.cfg P b m).attached = s.attached := by
  rw [State.cfg_spec]
  split <;> rfl

theorem State.bank_cfg_self (s : State) (P : Params) (b : BankId) (m : Mode) :
    (s.cfg P b m).bank b = { s.bank b with mode := if m ∈ P.bankCap b then m else (s.bank b).mode } := by
  rw [State.cfg_spec]
  split
  next => exact s.bank_setBank_self b _
  next => rfl

/-- Accepted or not, a `CFG` writes the mode of its bank at most (R121, R165). -/
theorem CommandEffect.cfg_writes_mode_only {P : Params} {s t : State} {mode : Nat} {b : BankId}
    (h : CommandEffect P s (.cfg (bankNumber b) mode) t) :
    (∀ y, t.addr y = s.addr y) ∧ t.attached = s.attached ∧ t.bank b = { s.bank b with mode := (t.bank b).mode } := by
  generalize hbank : bankNumber b = bank at h
  cases h with
  | nothing | response => exact ⟨fun _ => rfl, rfl, rfl⟩
  | cfg hoperand =>
    obtain rfl := eq_of_bankOperand (congrArg some hbank.symm) hoperand
    exact ⟨s.addr_cfg P _ _, s.attached_cfg P _ _, by rw [State.bank_cfg_self]⟩

/-- Settles O18: confinement for every bank-level command; the mode by `recordsHaveOnlyTheirWriters`, and `CFG` by what it writes. -/
theorem bankOperationIsConfinedToItsBankAndBus : Obligations.BankOperationIsConfinedToItsBankAndBus := by
  intro s t b i hi h
  have heffect := CommandEffect.of_exec h
  obtain ⟨hmode, -⟩ := recordsHaveOnlyTheirWriters i s t h
  have hfield : Instr.bankField i = some (bankNumber b) := by
    obtain ⟨x, y, rfl | rfl | rfl | rfl | rfl⟩ := hi <;> rfl
  have hwriter : (∀ m, i ≠ .cfg (bankNumber b) m) → mayWriteBankMode i = false := by
    intro hcfg
    obtain ⟨x, y, rfl | rfl | rfl | rfl | rfl⟩ := hi
    · exact absurd rfl (hcfg x)
    all_goals rfl
  have hconf := heffect.confinedTo hfield
  refine ⟨?_, fun hcfg => hmode (hwriter hcfg) b, fun b' hb => ⟨hconf.bank b' hb, hconf.frames hb⟩, hconf.addr, hconf.pins,
    hconf.ports, hconf.analogReport⟩
  rintro ⟨m, rfl⟩
  obtain ⟨haddr, hatt, hbank⟩ := heffect.cfg_writes_mode_only
  exact ⟨haddr _, hatt, hbank⟩

end Sys2Proof.Machine
end

section
/-! PROOFS. The commands of the Pin/Port State Machine as one operation each, and those that only read or write a report register
(spec 42_pin_port_state_machine.md R180 to R183). -/

namespace Sys2Proof.Machine

/-! ### A command on a valid operand is one operation (R170) -/

theorem execWith_setmode (P : Params) (s : State) (p : PinId) (mode : Nat) :
    execWith P (.setmode p.val mode) s = .next (s.setmode P p mode) := by
  rw [execWith, execSetmodeWith, pinOperand_val]

theorem exec_setmode (s : State) (p : PinId) (mode : Nat) :
    exec (.setmode p.val mode) s = .next (s.setmode Config.hw p mode) :=
  (exec_eq_execWith _ s).trans (execWith_setmode Config.hw s p mode)

theorem exec_wrport (s : State) (k : PortId) (byte : Byte) :
    exec (.wrport k.val byte) s = .next ((s.cachePort k byte).wrchAll Config.hw (s.portWrites Config.hw k byte)) := by
  rw [exec_eq_execWith, execWith, execWrportWith, portOperand_val]

theorem exec_wrpin (s : State) (p : PinId) (v : Nat) :
    exec (.wrpin p.val v) s = .next (s.pinWrite Config.hw p (boolOperand v)) := by
  rw [exec_eq_execWith, execWith, execWrpinWith, pinOperand_val]

theorem exec_sampd (s : State) (k : PortId) (force : Nat) :
    exec (.sampd k.val force) s = .next (s.sampd Config.hw k (boolOperand force)) := by
  rw [exec_eq_execWith, execWith, execSampdWith, portOperand_val]

theorem exec_sampa (s : State) (c : ChanId) : exec (.sampa c.val) s = .next (s.sampa Config.hw c) := by
  rw [exec_eq_execWith, execWith, execSampaWith, analogPinOperand_val]

/-! ### An index out of range (R60, R226) -/

theorem exec_pin_out_of_range (s : State) {pin : Nat} (h : 95 < pin) (v : Nat) :
    exec (.setmode pin v) s = .next s ∧ exec (.wrpin pin v) s = .next s ∧ exec (.qpin pin) s = .next s.respondSentinel := by
  simp only [exec_eq_execWith, execWith, execSetmodeWith, execWrpinWith, execQpinWith, pinOperand_none h, and_self]

theorem exec_port_out_of_range (s : State) {port : Nat} (h : 11 < port) (v : Nat) (byte : Byte) :
    exec (.wrport port byte) s = .next s ∧ exec (.sampd port v) s = .next s ∧ exec (.repd port v) s = .next s ∧
      exec (.qport port) s = .next s.respondSentinel := by
  simp only [exec_eq_execWith, execWith, execWrportWith, execSampdWith, execRepd, execQport, portOperand_none h, and_self]

theorem exec_analogPin_out_of_range (s : State) {pin : Nat} (h : 15 < pin) (v : Nat) :
    exec (.sampa pin) s = .next s ∧ exec (.repa pin v) s = .next s := by
  simp only [exec_eq_execWith, execWith, execSampaWith, execRepa, analogPinOperand_none h, and_self]

/-! ### `REPD` and `REPA` (R180, R181) -/

theorem boolOperand_eq_decide (n : Nat) : boolOperand n = decide (n ≠ 0) := by
  cases n <;> rfl

/-- Settles O33: one port record is replaced. -/
theorem repdWritesReportEnable : Obligations.RepdWritesReportEnable := by
  refine ⟨fun a b c => decode_mkWord .repd a b c, fun s k e => ?_, fun s port e h => ?_⟩
  · rw [exec_eq_execWith, execWith, execRepd, portOperand_val, boolOperand_eq_decide]
    rfl
  · obtain ⟨-, -, hrepd, -⟩ := exec_port_out_of_range s h e 0
    exact hrepd

/-- Settles O34: one bit of the word is set, by `setBit_getLsbD`. -/
theorem repaWritesAnalogReportBit : Obligations.RepaWritesAnalogReportBit := by
  refine ⟨fun a b c => decode_mkWord .repa a b c, fun s c e => ?_, fun s pin e h => (exec_analogPin_out_of_range s h e).2⟩
  refine ⟨setBit s.analogReport c.val (boolOperand e), fun d => ?_, ?_⟩
  · rw [setBit_getLsbD, boolOperand_eq_decide]
    simp only [Fin.ext_iff, d.isLt, decide_true, Bool.and_true]
  · rw [exec_eq_execWith, execWith, execRepa, analogPinOperand_val]

/-! ### `QPIN` and `QPORT` (R182, R183) -/

section PinResponse

variable (ar excl : Bool) (r : Pin)

/-! The five fields of the response, from the lowest (R182). -/

theorem pinResponse_cache : (rspWord false (pinRecordValue ar excl r)).extractLsb' 0 16 = r.cachedValue := by
  rw [rspWord, BitVec.extractLsb'_append_eq_of_add_le (by decide), pinRecordValue, BitVec.extractLsb'_append_eq_right]

theorem pinResponse_mode : (rspWord false (pinRecordValue ar excl r)).extractLsb' 16 3 = modeCode r.currentMode := by
  rw [rspWord, BitVec.extractLsb'_append_eq_of_add_le (by decide), pinRecordValue,
    BitVec.extractLsb'_append_eq_of_le (by decide), BitVec.extractLsb'_append_eq_right]

theorem pinResponse_excl : (rspWord false (pinRecordValue ar excl r)).getLsbD 19 = excl := by
  simp only [rspWord, pinRecordValue, BitVec.getLsbD_append]
  simp

theorem pinResponse_analogReport : (rspWord false (pinRecordValue ar excl r)).getLsbD 20 = ar := by
  simp only [rspWord, pinRecordValue, BitVec.getLsbD_append]
  simp

theorem pinResponse_zeros : (rspWord false (pinRecordValue ar excl r)).extractLsb' 21 12 = 0 := by
  apply BitVec.eq_of_getLsbD_eq
  intro i hi
  have hcache : ¬ 21 + i < 16 := by omega
  have hmode : ¬ 21 + i - 16 < 3 := by omega
  have hexcl : ¬ 21 + i - 16 - 3 = 0 := by omega
  have har : ¬ 21 + i - 16 - 3 - 1 = 0 := by omega
  rw [rspWord, BitVec.getLsbD_extractLsb']
  simp only [BitVec.getLsbD_append, pinRecordValue]
  simp [hcache, hmode, hexcl, har]

end PinResponse

/-- Settles O35, field by field. -/
theorem qpinRespondsWithPinRecord : Obligations.QpinRespondsWithPinRecord := by
  refine ⟨fun a b c => decode_mkWord .qpin a b c, fun s p => ?_, fun s pin h => ?_⟩
  · refine ⟨_, ?_, pinResponse_cache _ _ (s.pin p), pinResponse_mode _ _ _, pinResponse_excl _ (Config.excl p) _,
      pinResponse_analogReport (decide (p.val ≤ 15) && s.analogReport.getLsbD p.val) _ _, pinResponse_zeros _ _ _⟩
    rw [exec_eq_execWith, execWith, execQpinWith, pinOperand_val]
    rfl
  · obtain ⟨-, -, hqpin⟩ := exec_pin_out_of_range s h 0
    exact hqpin

section PortResponse

variable (r : Port)

/-! The four fields of the response, from the lowest (R183). -/

theorem portResponse_previousSentValue : (rspWord false (portRecordValue r)).extractLsb' 0 8 = r.previousSentValue := by
  rw [rspWord, BitVec.extractLsb'_append_eq_of_add_le (by decide), portRecordValue, BitVec.extractLsb'_append_eq_right]

theorem portResponse_inputMask : (rspWord false (portRecordValue r)).extractLsb' 8 8 = r.inputMask := by
  rw [rspWord, BitVec.extractLsb'_append_eq_of_add_le (by decide), portRecordValue,
    BitVec.extractLsb'_append_eq_of_le (by decide), BitVec.extractLsb'_append_eq_right]

theorem portResponse_reportEnabled : (rspWord false (portRecordValue r)).getLsbD 16 = r.reportEnabled := by
  simp only [rspWord, portRecordValue, BitVec.getLsbD_append]
  simp

theorem portResponse_zeros : (rspWord false (portRecordValue r)).extractLsb' 17 16 = 0 := by
  apply BitVec.eq_of_getLsbD_eq
  intro i hi
  have hsent : ¬ 17 + i < 8 := by omega
  have hmask : ¬ 17 + i - 8 < 8 := by omega
  have henable : ¬ 17 + i - 8 - 8 = 0 := by omega
  rw [rspWord, BitVec.getLsbD_extractLsb']
  simp only [BitVec.getLsbD_append, portRecordValue]
  simp [hsent, hmask, henable]

end PortResponse

/-- Settles O36, field by field. -/
theorem qportRespondsWithPortRecord : Obligations.QportRespondsWithPortRecord := by
  refine ⟨fun a b c => decode_mkWord .qport a b c, fun s k => ?_, fun s port h => ?_⟩
  · refine ⟨_, ?_, portResponse_previousSentValue (s.port k), portResponse_inputMask _, portResponse_reportEnabled _,
      portResponse_zeros _⟩
    rw [exec_eq_execWith, execWith, execQport, portOperand_val]
    rfl
  · obtain ⟨-, -, -, hqport⟩ := exec_port_out_of_range s h 0 0
    exact hqport

end Sys2Proof.Machine
end

section
/-! PROOFS. `RESET` and `SETMODE` (spec 42_pin_port_state_machine.md R171 to R175, R187, R188). -/

namespace Sys2Proof.Machine

/-! ### `RESET` (R171 to R173) -/

/-- What `StepA` makes of a port, by cases on its bank's mode (R172). -/
theorem resetPort_eq (m : Mode) :
    resetPort m = if m = .digitalIn ∨ m = .digitalInPullup then ⟨true, 0xFF, 0⟩ else ⟨false, 0, 0⟩ := by
  cases m <;> rfl

/-- What `StepB` makes of a pin, by cases on the pin and its bank's mode (R173). -/
theorem resetPin_eq (p : PinId) (m : Mode) :
    (⟨resetPinMode p m, initialCache (resetPinMode p m)⟩ : Pin) =
      if p.val ≤ 15 then ⟨.analogIn, 0⟩
      else if 80 ≤ p.val then ⟨.digitalOut, 0⟩
      else if m = .digitalInPullup then ⟨.digitalInPullup, 1⟩
      else ⟨.digitalIn, 0⟩ := by
  unfold resetPinMode
  split_ifs <;> rfl

/-- Settles O21: `resetPort_eq` for the ports, `resetPin_eq` for the pins. -/
theorem resetDerivesRecordsFromBankModes : Obligations.ResetDerivesRecordsFromBankModes := by
  refine ⟨fun a b c => decode_mkWord .reset a b c, fun s => ?_⟩
  simp only [← resetPort_eq, ← resetPin_eq]
  rfl

/-- The reset algorithm reads only the banks' modes, which it keeps (R171). -/
theorem State.resetAlgorithm_resetAlgorithm (s : State) (P : Params) :
    (s.resetAlgorithm P).resetAlgorithm P = s.resetAlgorithm P := by
  simp only [State.resetAlgorithm, State.resetPins, State.resetPorts, State.bank]

/-- Settles O22. -/
theorem resetIsIdempotent : Obligations.ResetIsIdempotent := fun s =>
  ⟨s.resetAlgorithm Config.hw, rfl, congrArg Host.Outcome.next (s.resetAlgorithm_resetAlgorithm Config.hw)⟩

/-! ### `SETMODE` (R174, R175, R187) -/

/-- Exclusion is tested first (R175). -/
theorem State.setmode_of_excl {P : Params} {p : PinId} (h : P.excl p = true) (s : State) (mode : Nat) : s.setmode P p mode = s := by
  rw [State.setmode, if_pos h]

section NotExcluded

variable {P : Params} {p : PinId} (hexcl : P.excl p = false) (s : State)

include hexcl

theorem State.setmode_of_raw_code {mode : Nat} (h : 5 ≤ mode) : s.setmode P p mode = s.setCache p 0 := by
  simp [State.setmode, hexcl, modeOperand_none h]

theorem State.setmode_code (m : Mode) :
    s.setmode P p (modeCode m).toNat = if m ∈ P.allowed p then s.acceptMode P p m else s := by
  simp [State.setmode, hexcl]

end NotExcluded

theorem initialCache_eq (m : Mode) : initialCache m = if m = .digitalInPullup then 1 else 0 := by cases m <;> rfl

theorem isDigitalInput_eq_decide (m : Mode) : isDigitalInput m = decide (m = .digitalIn ∨ m = .digitalInPullup) := by
  cases m <;> rfl

/-- An allowed mode of a pin of this hardware: the pin's record, its mask bit and its bank's mode, which the bank can hold (R174). -/
theorem exec_setmode_of_mem_allowed (s : State) {p : PinId} {m : Mode} (h : m ∈ Config.allowed p) :
    exec (.setmode p.val (modeCode m).toNat) s =
      .next ((s.acceptModeRecords Config.hw p m).cfg Config.hw (bankOf Config.hw p) m) := by
  rw [exec_setmode, State.setmode_code (hw_excl p), hw_allowed, if_pos h, State.acceptMode_eq]

/-- Settles O24, one case of R174 and R175 after the other. -/
theorem setmodeFollowsCapability : Obligations.SetmodeFollowsCapability := by
  refine ⟨fun a b c => decode_mkWord .setmode a b c, fun s p m h => ?_, fun s p m h => ?_, fun s p mode h => ?_,
    fun s pin mode h => (exec_pin_out_of_range s h mode).1, fun P s p mode h => ?_⟩
  · have hbank : m ∈ Config.hw.bankCap (bankOf Config.hw p) := allowed_in_bankCap p m h
    rw [exec_setmode_of_mem_allowed s h, State.cfg_spec, if_pos hbank, ← initialCache_eq, ← isDigitalInput_eq_decide]
    rfl
  · rw [exec_setmode, State.setmode_code (hw_excl p), hw_allowed, if_neg h]
  · rw [exec_setmode, State.setmode_of_raw_code (hw_excl p) s h]
    rfl
  · rw [execWith_setmode, State.setmode_of_excl h]

/-- Settles O25: both the meaning and the line steps test exclusion first. -/
theorem excludedPinIgnoresSetmode : Obligations.ExcludedPinIgnoresSetmode := by
  intro P s p mode h
  constructor
  · rw [execWith_setmode, State.setmode_of_excl h]
  · simp only [lineSteps, pinOperand_val, State.setmodeSteps, if_pos h]

/-- Settles O26: a capability that holds DigitalInPullup is not {DigitalOut}, so the first check of R177 fails. -/
theorem synthesizedHighHasNoEffect : Obligations.SynthesizedHighHasNoEffect := by
  intro P s p hpullup
  have hnot : ¬ isOnlyDigitalOut (P.allowed p) = true := fun honly =>
    nomatch ((isOnlyDigitalOut_iff _).mp honly _).mp hpullup
  rw [State.pinWrite_spec, if_neg fun h => hnot h.1]

/-- An accepted mode reaches the record of its own pin only (R174, R188). -/
theorem State.pin_acceptModeRecords (s : State) (P : Params) (p : PinId) (m : Mode) (q : PinId) :
    (s.acceptModeRecords P p m).pin q = if q = p then ⟨m, initialCache m⟩ else s.pin q := by
  rw [State.acceptModeRecords, State.setInputBit, State.pin_setPort, State.pin_setPin]

/-- Settles O27: the bank takes the mode by its `CFG`, the pin by its record. -/
theorem pullupIsPerBankWhilePinModesArePerPin : Obligations.PullupIsPerBankWhilePinModesArePerPin := by
  intro s p m h
  have hbank : m ∈ Config.hw.bankCap (bankOf Config.hw p) := allowed_in_bankCap p m h
  refine ⟨_, exec_setmode_of_mem_allowed s h, ?_, ?_, fun q hq => ?_⟩
  · rw [State.dataPu_eq, State.bank_cfg_self, if_pos hbank]
  · rw [State.pin_cfg, State.currentMode_acceptModeRecords]
  · rw [State.pin_cfg, State.pin_acceptModeRecords, if_neg hq]

end Sys2Proof.Machine
end

section
/-! PROOFS. The commands that write output pins: `WRPIN` and `WRPORT` (spec 42_pin_port_state_machine.md R176, R177). -/

namespace Sys2Proof.Machine

/-! ### `WRPIN` (R177) -/

theorem bitValue_boolOperand (v : Nat) : bitValue (boolOperand v) = if v = 0 then 0 else 1 := by
  cases v <;> rfl

/-- The frame of a write reads no pin record and leaves them all alone (R123, R170). -/
theorem State.framed_with_pins (s : State) (P : Params) (pins : Vector Pin 96) (b : BankId) (f x : Frame) :
    ({ s with pins := pins } : State).framed P b f x = { s.framed P b f x with pins := pins } := rfl

theorem State.setCache_eq_with_pins (s : State) (p : PinId) (v : Frame) :
    s.setCache p v = { s with pins := s.pins.set p.val { s.pin p with cachedValue := v } p.isLt } := rfl

/-- Settles O29: `State.wrch_spec` from the state with the pin's cache written. -/
theorem wrpinWritesOneOutputPin : Obligations.WrpinWritesOneOutputPin := by
  refine ⟨fun a b c => decode_mkWord .wrpin a b c, fun s p v hp hmode hclock => ?_, fun s p v h => ?_,
    fun s pin v h => (exec_pin_out_of_range s h v).2.1⟩
  · obtain ⟨x, hx, hwrch⟩ := (s.setCache p (bitValue (boolOperand v))).wrch_spec Config.hw (bankOf Config.hw p)
      (chanOf Config.hw p) (boolOperand v) (by rwa [State.bank_setCache])
    simp only [State.dataDir_eq, State.bank_setCache, decide_eq_true_eq] at hx hwrch
    refine ⟨x, hx, ?_⟩
    rw [exec_wrpin, State.pinWrite_hw, if_pos ⟨hp, hmode⟩, hwrch, State.setCache_eq_with_pins, State.framed_with_pins,
      bitValue_boolOperand]
    rfl
  · have hno : ¬ (80 ≤ p.val ∧ (s.pin p).currentMode = .digitalOut) := fun ⟨hp, hmode⟩ =>
      h.elim (Nat.not_lt.mpr hp) fun hne => hne hmode
    rw [exec_wrpin, State.pinWrite_hw, if_neg hno]

/-! ### `WRPORT` (R176) -/

section Wrport

variable (s : State) (k : PortId) (byte : Byte)

theorem portIsOutput_iff (i : Fin 8) : portIsOutput s k i = true ↔ (s.pin (portPin k i)).currentMode = .digitalOut := by
  rw [portIsOutput, beq_iff_eq]

/-- On this hardware the writes are one per DigitalOut pin, to the port's bank and the pin's channel, in ascending order (R63, R176). -/
theorem State.portWrites_hw : s.portWrites Config.hw k byte =
    ((List.finRange 8).filter (portIsOutput s k)).map fun i => (portBank k, portChan k i, byte.getLsbD i.val) := by
  rw [State.portWrites, ← List.filterMap_eq_filter, ← List.filterMap_eq_map, List.filterMap_filterMap]
  congr 1
  funext i
  by_cases hout : portIsOutput s k i = true
  · simp [Option.guard, hout, (portIsOutput_iff s k i).mp hout, bankOf_portPin, chanOf_portPin]
  · simp [Option.guard, hout, mt (portIsOutput_iff s k i).mpr hout]

theorem State.portWrites_hw_ne_nil_iff : s.portWrites Config.hw k byte ≠ [] ↔ ∃ i : Fin 8, portIsOutput s k i = true := by
  simp [State.portWrites_hw, List.filter_eq_nil_iff]

/-- The channels written are those of the port's DigitalOut pins (R63, R176). -/
theorem State.mem_portWrites_channels_iff (c : ChanId) :
    c ∈ (s.portWrites Config.hw k byte).map (fun e => e.2.1) ↔
      c.val / 8 = k.val % 2 ∧ portIsOutput s k ⟨c.val % 8, by omega⟩ = true := by
  simp only [State.portWrites_hw, List.map_map, List.mem_map, List.mem_filter, List.mem_finRange, true_and, Function.comp]
  constructor
  · rintro ⟨i, hout, rfl⟩
    have hdiv : (portChan k i).val / 8 = k.val % 2 := by simp only [portChan]; omega
    have hbit : (⟨(portChan k i).val % 8, by omega⟩ : Fin 8) = i := by apply Fin.ext; simp only [portChan]; omega
    exact ⟨hdiv, by rw [hbit]; exact hout⟩
  · rintro ⟨hdiv, hout⟩
    exact ⟨_, hout, by apply Fin.ext; simp only [portChan]; omega⟩

/-- The frame after the writes: the byte's bits on the channels of the port's DigitalOut pins, the shadow's on the others (R176). -/
theorem State.portWrites_frame_getLsbD (sh : Frame) (c : ChanId) :
    (writesFrame (s.portWrites Config.hw k byte) sh).getLsbD c.val =
      if c.val / 8 = k.val % 2 ∧ portIsOutput s k ⟨c.val % 8, by omega⟩ = true then byte.getLsbD (c.val % 8)
      else sh.getLsbD c.val := by
  have hbits : ∀ e ∈ s.portWrites Config.hw k byte, e.2.2 = byte.getLsbD (e.2.1.val % 8) := by
    simp only [State.mem_portWrites_hw]
    rintro _ ⟨i, -, rfl⟩
    have hbit : (portChan k i).val % 8 = i.val := by simp only [portChan]; omega
    exact congrArg byte.getLsbD hbit.symm
  simp only [writesFrame_getLsbD (fun d => byte.getLsbD (d.val % 8)) _ sh c hbits, State.mem_portWrites_channels_iff]

theorem isDigital_iff (m : Mode) : isDigital m = true ↔ m = .digitalIn ∨ m = .digitalInPullup ∨ m = .digitalOut := by
  cases m <;> decide

/-- The caches of the port's digital pins take the byte's bits (R176). -/
theorem State.pins_cachePort : (s.cachePort k byte).pins = Vector.ofFn fun p =>
    if p.val / 8 = k.val ∧ ((s.pin p).currentMode = .digitalIn ∨ (s.pin p).currentMode = .digitalInPullup ∨
        (s.pin p).currentMode = .digitalOut) then
      { s.pin p with cachedValue := if byte.getLsbD (p.val % 8) then 1 else 0 }
    else s.pin p := by
  simp only [State.cachePort, isDigital_iff, bitValue]

theorem State.cachePort_eq_with_pins : s.cachePort k byte = { s with pins := (s.cachePort k byte).pins } := by
  simp only [State.cachePort]

/-- The writes of a port, whatever the pin records have become: one frame of the port's bank, or nothing when no pin is an output
(R176). -/
theorem State.wrchAll_portWrites (pins : Vector Pin 96) (hclock : (s.bank (portBank k)).sclk = false) :
    ∃ x : Frame, ((s.bank (portBank k)).mode = .digitalOut →
        x = writesFrame (s.portWrites Config.hw k byte) (s.bank (portBank k)).shadow) ∧
      ({ s with pins := pins } : State).wrchAll Config.hw (s.portWrites Config.hw k byte) =
        { (if ∃ i : Fin 8, portIsOutput s k i = true then
            s.framed Config.hw (portBank k) (writesFrame (s.portWrites Config.hw k byte) (s.bank (portBank k)).shadow) x else s) with
          pins := pins
          trace := s.trace ++ wrchAllSteps Config.hw (s.portWrites Config.hw k byte) fun b => (s.bank b).shadow
          freeCount := if (s.bank (portBank k)).mode = .digitalOut then s.freeCount
            else s.freeCount + 16 * ((List.finRange 8).filter (portIsOutput s k)).length } := by
  have hbank : ∀ b, ({ s with pins := pins } : State).bank b = s.bank b := fun _ => rfl
  have hlength : (s.portWrites Config.hw k byte).length = ((List.finRange 8).filter (portIsOutput s k)).length := by
    rw [State.portWrites_hw, List.length_map]
  by_cases hout : ∃ i : Fin 8, portIsOutput s k i = true
  · have hport : ∀ w ∈ s.portWrites Config.hw k byte, w.1 = portBank k := by
      simp only [State.mem_portWrites_hw]
      rintro _ ⟨i, -, rfl⟩
      rfl
    obtain ⟨x, hx, hwrites⟩ := ({ s with pins := pins } : State).wrchAll_spec Config.hw (portBank k) _
      ((s.portWrites_hw_ne_nil_iff k byte).mpr hout) hport hclock
    simp only [State.dataDir_eq, hbank, decide_eq_true_eq, hlength] at hx hwrites
    refine ⟨x, hx, ?_⟩
    rw [hwrites, if_pos hout, State.framed_with_pins]
  · have hnil : s.portWrites Config.hw k byte = [] := not_not.mp (mt (s.portWrites_hw_ne_nil_iff k byte).mp hout)
    refine ⟨_, fun _ => rfl, ?_⟩
    rw [if_neg hout, ← hlength, hnil, List.length_nil, Nat.mul_zero, Nat.add_zero, ite_self, wrchAllSteps, List.append_nil,
      State.wrchAll]

end Wrport

/-- Settles O28: the writes of the port after its caches, and the bits of the frame they leave. -/
theorem wrportUpdatesCachesAndOutputs : Obligations.WrportUpdatesCachesAndOutputs := by
  refine ⟨fun s k byte hclock => ?_, fun s port byte h => (exec_port_out_of_range s h 0 byte).1⟩
  obtain ⟨x, hx, hwrites⟩ := s.wrchAll_portWrites k byte (s.cachePort k byte).pins hclock
  refine ⟨_, x, s.portWrites_frame_getLsbD k byte (s.bank (portBank k)).shadow, hx, ?_⟩
  rw [exec_wrport, State.cachePort_eq_with_pins, hwrites, State.pins_cachePort, lineSteps, portOperand_val]

end Sys2Proof.Machine
end

section
/-! PROOFS. The commands that sample and report: `SAMPD` and `SAMPA` (spec 42_pin_port_state_machine.md R178, R179). -/

namespace Sys2Proof.Machine

/-! ### `SAMPD` (R178) -/

section Sampd

variable (s : State) (k : PortId)

/-- The byte of a port: the inverted samples under the mask (R127, R178). -/
theorem State.portSample_getLsbD (i : Fin 8) :
    (s.portSample k).getLsbD i.val = (!s.sampleAt i.val && (s.port k).inputMask.getLsbD i.val) := by
  rw [State.portSample, BitVec.getLsbD_and, byteOfBits_getLsbD _ _ i.isLt]
  simp

/-- The byte of a port depends on the next eight samples and the mask only (R178). -/
theorem State.portSample_congr {s t : State} (hsample : ∀ i : Fin 8, t.sampleAt i.val = s.sampleAt i.val)
    (hmask : (t.port k).inputMask = (s.port k).inputMask) : t.portSample k = s.portSample k := by
  apply BitVec.eq_of_getLsbD_eq
  intro i hi
  have ht := t.portSample_getLsbD k ⟨i, hi⟩
  have hs := s.portSample_getLsbD k ⟨i, hi⟩
  rw [hsample, hmask] at ht
  exact ht.trans hs.symm

theorem reportsDigital_iff (value previous : Byte) (force : Bool) :
    reportsDigital value previous force = true ↔ value ≠ previous ∨ force = true := by
  rw [reportsDigital, Bool.or_eq_true, bne_iff_ne]

/-- The eight reads of a port in ascending order, step by step (R136, R178). -/
theorem portReadSteps_eq (P : Params) : portReadSteps P k = (List.finRange 8).flatMap fun i =>
    [.outMode (portBank k) false, .address (busOf P (portBank k)) (portChan k i), .sample (portBank k)] := by
  rw [portReadSteps, portChannels, List.flatMap_map]
  rfl

end Sampd

/-- Settles O30: `State.sampd_spec`, with the byte bit by bit. -/
theorem sampdReportsMaskedChanges : Obligations.SampdReportsMaskedChanges := by
  refine ⟨fun a b c => decode_mkWord .sampd a b c, fun s k force h => ?_, fun s k force h => ?_,
    fun s port force h => (exec_port_out_of_range s h force 0).2.1⟩
  · refine ⟨s.portSample k, s.portSample_getLsbD k, ?_⟩
    have hreport : reportsDigital (s.portSample k) (s.port k).previousSentValue (boolOperand force) = true ↔
        s.portSample k ≠ (s.port k).previousSentValue ∨ force ≠ 0 := by
      rw [reportsDigital_iff, boolOperand_eq_decide, decide_eq_true_eq]
    rw [exec_sampd, State.sampd_spec, if_pos h, ← portReadSteps_eq]
    simp only [hreport]
    split <;> rfl
  · rw [exec_sampd, State.sampd_spec, h]
    rfl

section StableInput

variable {s : State} {k : PortId} (henabled : (s.port k).reportEnabled = true) (P : Params) (force : Bool)

include henabled

/-- After `SAMPD` the last value sent is the byte just sampled: reported now, or equal to the last one (R178). -/
theorem State.port_sampd : (s.sampd P k force).port k = { s.port k with previousSentValue := s.portSample k } := by
  rw [State.sampd_spec, if_pos henabled]
  split
  next => rw [State.port_setPort_self]
  next hsilent =>
    have hsame : s.portSample k = (s.port k).previousSentValue := by
      by_contra hne
      exact hsilent ((reportsDigital_iff _ _ _).mpr (.inl hne))
    rw [hsame]
    rfl

/-- `SAMPD` emits one event when the byte has changed or the report is forced, and none otherwise (R178). -/
theorem State.evt_sampd : (s.sampd P k force).evt =
    if s.portSample k ≠ (s.port k).previousSentValue ∨ force = true then
      s.evt ++ [evtWord false (BitVec.ofNat 8 k.val) ((s.portSample k).setWidth 16)]
    else s.evt := by
  rw [State.sampd_spec, if_pos henabled]
  simp only [reportsDigital_iff]
  split <;> rfl

/-- The samples after `SAMPD` are those from the ninth on (R178; log 3). -/
theorem State.sampleAt_sampd (n : Nat) : (s.sampd P k force).sampleAt n = s.sampleAt (n + 8) := by
  have hread : (s.sampd P k force).sampleAt n = (s.portRead P k).sampleAt n := by
    rw [State.sampd_spec, if_pos henabled]
    split <;> rfl
  rw [hread]
  simp only [State.sampleAt, State.portRead, List.getElem?_drop, List.length_drop, Nat.add_comm 8 n]
  split
  next => rfl
  next hnone =>
    rw [List.getElem?_eq_none_iff] at hnone
    congr 1
    omega

theorem State.reportEnabled_sampd : ((s.sampd P k force).port k).reportEnabled = true := by
  rw [State.port_sampd henabled]
  exact henabled

/-- With the same eight samples twice, the second byte is the first, which is recorded (R178). -/
theorem State.portSample_sampd_of_stable (hstable : ∀ i : Fin 8, s.sampleAt i.val = s.sampleAt (i.val + 8)) :
    (s.sampd P k force).portSample k = ((s.sampd P k force).port k).previousSentValue := by
  have hport := State.port_sampd henabled P force
  rw [hport]
  refine State.portSample_congr k (fun i => ?_) (by rw [hport])
  exact (State.sampleAt_sampd henabled P force i.val).trans (hstable i).symm

end StableInput

/-- Settles O31: one event at most by `State.evt_sampd`; the second call finds the byte it samples already recorded. -/
theorem stableInputIsReportedOnce : Obligations.StableInputIsReportedOnce := by
  intro s k henabled hstable
  have henabled' := State.reportEnabled_sampd henabled Config.hw false
  have hrecorded := State.portSample_sampd_of_stable henabled Config.hw false hstable
  refine ⟨s.sampd Config.hw k false, _, _, exec_sampd s k 0, exec_sampd _ k 0, exec_sampd _ k 1, ?_, ?_, ?_⟩
  · rw [State.evt_sampd henabled]
    split <;> simp
  · rw [State.evt_sampd henabled', if_neg (by simp [hrecorded, boolOperand])]
  · rw [State.evt_sampd henabled', if_pos (.inr rfl), List.length_append, List.length_singleton]

/-! ### `SAMPA` (R179) -/

theorem reportsAnalog_iff (v : Frame) : reportsAnalog v = true ↔ v ≠ 0 := by
  rw [reportsAnalog, bne_iff_ne]

/-- Settles O32: `State.sampa_spec`, with and without the event. -/
theorem sampaCachesAndSuppressesZero : Obligations.SampaCachesAndSuppressesZero := by
  refine ⟨fun a b c => decode_mkWord .sampa a b c, fun s c => ?_, fun s pin h => (exec_analogPin_out_of_range s h 0).1⟩
  rw [exec_sampa, State.sampa_spec]
  by_cases hzero : s.asampleValue Config.hw = 0
  · rw [if_neg (mt (reportsAnalog_iff _).mp (not_not.mpr hzero)), if_pos hzero]
    rfl
  · rw [if_pos ((reportsAnalog_iff _).mpr hzero), if_neg hzero]
    rfl

end Sys2Proof.Machine
end

section
/-! PROOFS. How many responses and events a command puts out (spec 30_encoding.md R96, R99; 42_pin_port_state_machine.md R186). -/

namespace Sys2Proof.Machine

/-- Nothing has been put on `RSP` or `EVT` from `s` to `t`. -/
structure Silent (s t : State) : Prop where
  rsp : t.rsp = s.rsp
  evt : t.evt = s.evt

namespace Silent

variable {s t u : State}

theorem trans (h : Silent s t) (h' : Silent t u) : Silent s u := ⟨h'.rsp.trans h.rsp, h'.evt.trans h.evt⟩

/-- No line step responds or emits (R170). -/
theorem runSteps (s : State) (P : Params) (l : List LineStep) : Silent s (s.runSteps P l) := by
  obtain ⟨-, -, -, -, -, -, -, hrsp, hevt⟩ := s.runSteps_other P l
  exact ⟨hrsp, hevt⟩

theorem cfg (s : State) (P : Params) (b : BankId) (m : Mode) : Silent s (s.cfg P b m) := runSteps s P _

theorem wrch (s : State) (P : Params) (b : BankId) (c : ChanId) (v : Level) : Silent s (s.wrch P b c v) := runSteps s P _

theorem wrchAll (s : State) (P : Params) (l : List Write) : Silent s (s.wrchAll P l) := by
  induction l generalizing s with
  | nil => exact ⟨rfl, rfl⟩
  | cons w l ih => exact (wrch s P _ _ _).trans (ih _)

theorem pinWrite (s : State) (P : Params) (p : PinId) (v : Level) : Silent s (s.pinWrite P p v) := by
  rw [State.pinWrite_spec]
  split
  next => exact .trans (t := s.setCache p (bitValue v)) ⟨rfl, rfl⟩ (wrch _ P _ _ v)
  next => exact ⟨rfl, rfl⟩

theorem setmode (s : State) (P : Params) (p : PinId) (mode : Nat) : Silent s (s.setmode P p mode) := by
  unfold State.setmode
  split
  next => exact ⟨rfl, rfl⟩
  next =>
    split
    next => exact ⟨rfl, rfl⟩
    next m _ =>
      split
      next =>
        rw [State.acceptMode_eq]
        exact .trans (t := s.acceptModeRecords P p m) ⟨rfl, rfl⟩ (cfg _ P _ m)
      next => exact ⟨rfl, rfl⟩

theorem rdd (s : State) (P : Params) (b : BankId) (c : ChanId) : Silent s (s.rdd P b c).2 := by
  rw [State.rdd_spec]
  exact ⟨rfl, rfl⟩

theorem rda (s : State) (P : Params) (b : BankId) (c : ChanId) : Silent s (s.rda P b c).2 := by
  rw [State.rda_spec]
  exact ⟨rfl, rfl⟩

end Silent

/-- From `s` to `t` the command `i` has put out the response it owes, and an event only if it may emit. -/
structure PutsOut (i : Instr) (s t : State) : Prop where
  rsp : t.rsp.length = s.rsp.length + if responds i then 1 else 0
  evt : t.evt.length ≤ s.evt.length + if mayEmit i then 1 else 0

namespace PutsOut

variable {P : Params} {i : Instr} {s t : State}

theorem of_silent (hi : responds i = false) (h : Silent s t) : PutsOut i s t where
  rsp := by rw [h.rsp, hi]; rfl
  evt := by rw [h.evt]; exact Nat.le_add_right _ _

theorem of_response (hi : responds i = true) (h : Silent s t) (err : Bool) (value : BitVec 32) :
    PutsOut i s (t.respond err value) where
  rsp := by rw [State.rsp_respond, h.rsp, hi, List.length_append]; rfl
  evt := by rw [State.evt_respond, h.evt]; exact Nat.le_add_right _ _

theorem of_rejected (hi : responds i = true) : PutsOut i s s.respondSentinel := of_response hi ⟨rfl, rfl⟩ _ _

theorem of_unchanged (hi : responds i = false) : PutsOut i s s := of_silent hi ⟨rfl, rfl⟩

/-- One event or none, and no response. -/
theorem of_emission (hi : responds i = false) (he : mayEmit i = true) (hrsp : t.rsp = s.rsp)
    (hevt : t.evt = s.evt ∨ ∃ e, t.evt = s.evt ++ [e]) : PutsOut i s t where
  rsp := by rw [hrsp, hi]; rfl
  evt := by
    rw [he]
    obtain h | ⟨e, h⟩ := hevt
    all_goals simp [h]

theorem sampd (port force : Nat) (k : PortId) (f : Bool) : PutsOut (.sampd port force) s (s.sampd P k f) := by
  rw [State.sampd_spec]
  split
  next =>
    split
    next => exact of_emission rfl rfl rfl (.inr ⟨_, rfl⟩)
    next => exact of_emission rfl rfl rfl (.inl rfl)
  next => exact of_unchanged rfl

theorem sampa (pin : Nat) (c : ChanId) : PutsOut (.sampa pin) s (s.sampa P c) := by
  rw [State.sampa_spec]
  dsimp only
  split
  next => exact of_emission rfl rfl rfl (.inr ⟨_, rfl⟩)
  next => exact of_emission rfl rfl rfl (.inl rfl)

/-- A rejected form responds with the sentinel if the command is one that responds, and is silent otherwise; an accepted one is one of
the operations above (R120, R186, R226). -/
theorem of_execWith (h : execWith P i s = .next t) : PutsOut i s t := by
  cases i with
  | cfg bank mode =>
    simp only [execWith, execCfgWith] at h
    (repeat' split at h) <;> cases h
    exacts [of_unchanged rfl, of_unchanged rfl, of_silent rfl (.cfg s P _ _)]
  | wrch bank chan value =>
    simp only [execWith, execWrchWith] at h
    (repeat' split at h) <;> cases h
    exacts [of_unchanged rfl, of_unchanged rfl, of_silent rfl (.wrch s P _ _ _)]
  | rdd bank chan =>
    simp only [execWith, execRddWith] at h
    (repeat' split at h) <;> cases h
    exacts [of_rejected rfl, of_rejected rfl, of_response rfl (.rdd s P _ _) _ _]
  | rda bank chan =>
    simp only [execWith, execRdaWith] at h
    (repeat' split at h) <;> cases h
    exacts [of_rejected rfl, of_rejected rfl, of_response rfl (.rda s P _ _) _ _]
  | qbank bank =>
    simp only [execWith, execQbank] at h
    split at h <;> cases h
    exacts [of_rejected rfl, of_response rfl ⟨rfl, rfl⟩ _ _]
  | reset =>
    cases h
    exact of_silent rfl ⟨s.rsp_resetAlgorithm P, s.evt_resetAlgorithm P⟩
  | setmode pin mode =>
    simp only [execWith, execSetmodeWith] at h
    split at h <;> cases h
    exacts [of_unchanged rfl, of_silent rfl (.setmode s P _ _)]
  | wrport port byte =>
    simp only [execWith, execWrportWith] at h
    split at h <;> cases h
    next => exact of_unchanged rfl
    next k _ =>
      have hcache : Silent s (s.cachePort k byte) := ⟨s.rsp_cachePort k byte, s.evt_cachePort k byte⟩
      exact of_silent rfl (hcache.trans (.wrchAll _ P _))
  | wrpin pin value =>
    simp only [execWith, execWrpinWith] at h
    split at h <;> cases h
    exacts [of_unchanged rfl, of_silent rfl (.pinWrite s P _ _)]
  | sampd port force =>
    simp only [execWith, execSampdWith] at h
    split at h <;> cases h
    exacts [of_unchanged rfl, sampd port force _ _]
  | sampa pin =>
    simp only [execWith, execSampaWith] at h
    split at h <;> cases h
    exacts [of_unchanged rfl, sampa pin _]
  | repd port enable =>
    simp only [execWith, execRepd] at h
    split at h <;> cases h
    all_goals exact of_silent rfl ⟨rfl, rfl⟩
  | repa pin enable =>
    simp only [execWith, execRepa] at h
    split at h <;> cases h
    all_goals exact of_silent rfl ⟨rfl, rfl⟩
  | qpin pin =>
    simp only [execWith, execQpinWith] at h
    split at h <;> cases h
    exacts [of_rejected rfl, of_response rfl ⟨rfl, rfl⟩ _ _]
  | qport port =>
    simp only [execWith, execQport] at h
    split at h <;> cases h
    exacts [of_rejected rfl, of_response rfl ⟨rfl, rfl⟩ _ _]

end PutsOut

/-- Settles O42: acceptance ends the pulses of the step before, the command puts out its own, and completion adds `DONE`. -/
theorem responsesAndEventsPerCommand : Obligations.ResponsesAndEventsPerCommand := by
  intro s t w rest i hready hinput hdecode hstep
  have hrun : ({ s with input := rest } : State).runWord exec w = .next t :=
    (State.runInput_command Config.hw hready hinput).symm.trans hstep
  obtain ⟨op, herror, -⟩ | ⟨j, u, hok, hexec, rfl⟩ := State.runWord_cases hrun
  · exact nomatch hdecode.symm.trans herror
  · cases hdecode.symm.trans hok
    have hout : PutsOut i ({ s with input := rest } : State).accept u := .of_execWith ((exec_eq_execWith i _).symm.trans hexec)
    exact ⟨rfl, rfl, hout.rsp.trans (Nat.zero_add _), hout.evt.trans_eq (Nat.zero_add _)⟩

end Sys2Proof.Machine
end

section
/-! PROOFS. Every command and every step completes (spec 30_encoding.md R99; 60_exceptions.md R220). -/

namespace Sys2Proof.Machine

/-- Each command checks one or two operands, and in range or not every check leads to a next state (R220, R226). -/
theorem execWith_completes (P : Params) (i : Instr) (s : State) : ∃ t, execWith P i s = .next t := by
  cases i
  case reset => exact ⟨_, rfl⟩
  case cfg bank mode =>
    simp only [execWith, execCfgWith]
    cases bankOperand bank with
    | none => exact ⟨_, rfl⟩
    | some b => cases modeOperand mode <;> exact ⟨_, rfl⟩
  case wrch bank chan _ | rdd bank chan | rda bank chan =>
    simp only [execWith, execWrchWith, execRddWith, execRdaWith]
    cases bankOperand bank with
    | none => exact ⟨_, rfl⟩
    | some b => cases chanOperand chan <;> exact ⟨_, rfl⟩
  case qbank bank =>
    simp only [execWith, execQbank]
    cases bankOperand bank <;> exact ⟨_, rfl⟩
  case setmode pin _ | wrpin pin _ | qpin pin =>
    simp only [execWith, execSetmodeWith, execWrpinWith, execQpinWith]
    cases pinOperand pin <;> exact ⟨_, rfl⟩
  case wrport port _ | sampd port _ | repd port _ | qport port =>
    simp only [execWith, execWrportWith, execSampdWith, execRepd, execQport]
    cases portOperand port <;> exact ⟨_, rfl⟩
  case sampa pin | repa pin _ =>
    simp only [execWith, execSampaWith, execRepa]
    cases analogPinOperand pin <;> exact ⟨_, rfl⟩

theorem exec_completes (i : Instr) (s : State) : ∃ t, exec i s = .next t :=
  exec_eq_execWith i s ▸ execWith_completes Config.hw i s

section Completion

variable {ex : Instr → State → Host.Outcome State Fault Refusal}

/-- Where commands complete, every presented word does, a reserved opcode included, and `complete` is its last act (R95, R99). -/
theorem State.runWord_completes (hex : ∀ i s, ∃ t, ex i s = .next t) (s : State) (w : CmdWord) :
    ∃ t : State, s.runWord ex w = .next t.complete := by
  cases hdecode : decode w with
  | ok i =>
    obtain ⟨t, ht⟩ := hex i s.accept
    exact ⟨t, by rw [State.runWord_of_decode_ok hdecode, ht, completeOutcome]⟩
  | error e => exact ⟨s.accept, State.runWord_of_decode_error hdecode⟩

/-- Where commands complete, so does every step: waiting and `RST` always do (R225, R240). -/
theorem State.runInput_completes (hex : ∀ i s, ∃ t, ex i s = .next t) (P : Params) (s : State) :
    ∃ t, s.runInput P ex = .next t := by
  unfold State.runInput
  split
  next => exact ⟨_, rfl⟩
  next => exact ⟨_, rfl⟩
  next w rest _ =>
    split
    next => exact (State.runWord_completes hex _ w).imp' State.complete fun _ h => h
    next => exact ⟨_, rfl⟩
  next => split <;> exact ⟨_, rfl⟩

end Completion

/-- Settles O7: each command completes, so each word ends with `complete`, which pulses `DONE` and raises `CMD_READY`. -/
theorem everyCommandCompletes : Obligations.EveryCommandCompletes := by
  refine ⟨exec_completes, State.runInput_completes exec_completes Config.hw, ?_⟩
  intro s w rest hready hinput
  obtain ⟨t, ht⟩ := State.runWord_completes exec_completes { s with input := rest } w
  exact ⟨t.complete, (State.runInput_command Config.hw hready hinput).trans ht, rfl, rfl⟩

end Sys2Proof.Machine
end

section
/-! PROOFS. No command and no step reads the jumpers (spec 10_state.md R25; 60_exceptions.md R223; 70_reset_and_hazards.md R247). -/

namespace Sys2Proof.Machine

section OtherJumpers

variable (P : Params) (jumper : BankId → Mode)

theorem State.sampd_jumper (s : State) (k : PortId) (force : Bool) :
    s.sampd { P with jumper := jumper } k force = s.sampd P k force := by
  rw [State.sampd_spec, State.sampd_spec]
  rfl

/-- `WRPORT` and `SAMPD` run through a list of channels, which takes an induction; every other command is, unfolded, the same term. -/
theorem execWith_jumper (i : Instr) (s : State) : execWith { P with jumper := jumper } i s = execWith P i s := by
  cases i with
  | wrport port byte =>
    simp only [execWith, execWrportWith, State.wrchAll_jumper]
    rfl
  | sampd port force => simp only [execWith, execSampdWith, State.sampd_jumper]
  | _ => rfl

/-- What `execWith_jumper` says, of the line steps: those of a cut command depend on no jumper either (R263). -/
theorem lineSteps_jumper (i : Instr) (s : State) : lineSteps { P with jumper := jumper } i s = lineSteps P i s := by
  cases i with
  | wrport port byte =>
    simp only [lineSteps, wrchAllSteps_jumper]
    rfl
  | _ => rfl

theorem State.wordSteps_jumper (s : State) (w : CmdWord) : s.wordSteps { P with jumper := jumper } w = s.wordSteps P w := by
  unfold State.wordSteps
  cases decode w with
  | ok i => exact lineSteps_jumper P jumper i s
  | error e => rfl

theorem State.abandonWord_jumper (s : State) (w : CmdWord) (n : Nat) :
    s.abandonWord { P with jumper := jumper } w n = s.abandonWord P w n := by
  unfold State.abandonWord
  rw [State.wordSteps_jumper]
  rfl

/-- The sequencer looks at the parameters only where `RST` comes: to know the line steps it cuts, and to power on (R240, R241). -/
theorem State.runInput_jumper (s : State) (ex : Instr → State → Host.Outcome State Fault Refusal) :
    s.runInput { P with jumper := jumper } ex = s.runInput P ex := by
  unfold State.runInput
  simp only [State.abandonWord_jumper]
  rfl

theorem stepWith_jumper (s : State) : stepWith { P with jumper := jumper } s = stepWith P s := by
  have hexec : execWith { P with jumper := jumper } = execWith P := funext fun i => funext (execWith_jumper P jumper i)
  rw [stepWith, hexec, State.runInput_jumper, stepWith]

end OtherJumpers

/-- Settles O47: the commands first, then the sequencer that runs them. -/
theorem noStepReadsTheJumpers : Obligations.NoStepReadsTheJumpers := fun P jumper s =>
  ⟨fun i => execWith_jumper P jumper i s, stepWith_jumper P jumper s⟩

end Sys2Proof.Machine
end

section
/-! PROOFS. The power-on sequence at an operation boundary and `RST` inside a command (spec 70_reset_and_hazards.md R240, R241,
R263). -/

namespace Sys2Proof.Machine

/-! ### The line steps of a presented word -/

section LineSteps

variable {s t : State} {P : Params}

/-- The line steps of an accepted `SETMODE` are those of its `CFG`: the synthesized logical high writes no channel (R174, R187). -/
theorem State.acceptModeSteps_eq (s : State) (P : Params) (p : PinId) (m : Mode) :
    s.acceptModeSteps P p m = cfgSteps P (bankOf P p) m := by
  unfold State.acceptModeSteps
  split
  next hm =>
    have hpin : (((s.acceptModeRecords P p m).cfg P (bankOf P p) m).pin p).currentMode ≠ .digitalOut := by
      rw [State.pin_cfg, State.currentMode_acceptModeRecords, hm]
      decide
    simp only [State.pinWriteSteps, if_pos hpin, ite_self, List.append_nil]
  next => exact List.append_nil _

/-- The line steps of a command depend on the bank, pin and port records only. -/
theorem lineSteps_congr (hbanks : s.banks = t.banks) (hpins : s.pins = t.pins) (hports : s.ports = t.ports) (i : Instr) :
    lineSteps P i s = lineSteps P i t := by
  have hbank := State.bank_congr hbanks
  have hpin := State.pin_congr hpins
  have hport := State.port_congr hports
  cases i with
  | wrch => simp only [lineSteps, hbank]
  | setmode => simp only [lineSteps, State.setmodeSteps, State.acceptModeSteps_eq]
  | wrport => simp only [lineSteps, State.portWrites, hbank, hpin]
  | wrpin => simp only [lineSteps, State.pinWriteSteps, hbank, hpin]
  | sampd => simp only [lineSteps, hport]
  | cfg | rdd | rda | qbank | reset | sampa | repd | repa | qpin | qport => rfl

theorem State.wordSteps_congr (hbanks : s.banks = t.banks) (hpins : s.pins = t.pins) (hports : s.ports = t.ports) (w : CmdWord) :
    s.wordSteps P w = t.wordSteps P w := by
  unfold State.wordSteps
  cases decode w with
  | ok i => exact lineSteps_congr hbanks hpins hports i
  | error e => rfl

theorem State.wordSteps_of_decode_ok {w : CmdWord} {i : Instr} (h : decode w = .ok i) : s.wordSteps P w = lineSteps P i s := by
  simp only [State.wordSteps, h]

/-- A reserved opcode makes no line step (R95). -/
theorem State.wordSteps_of_reserved {w : CmdWord} (h : ∀ i, decode w ≠ .ok i) : s.wordSteps P w = [] := by
  unfold State.wordSteps
  split
  next i hi => exact absurd hi (h i)
  next => rfl

end LineSteps

/-! ### `RST` at an operation boundary and inside a command -/

section Rst

variable {s : State} {ex : Instr → State → Host.Outcome State Fault Refusal}

/-- `RST` at an operation boundary runs the power-on sequence (R241). -/
theorem State.runInput_rst {rest : List HostInput} (P : Params) (hinput : s.input = .rst :: rest) :
    s.runInput P ex = .next (({ s.clearPulses with input := rest } : State).powerOn P) := by
  simp only [State.runInput, hinput]

/-- A word accepted with `CMD_READY` = 1 is cut short by the `RST` that follows (R240). -/
theorem State.runInput_commandCut {w : CmdWord} {n : Nat} {rest : List HostInput} (P : Params) (hready : s.cmdReady = true)
    (hinput : s.input = .commandCut w n :: rest) : s.runInput P ex = .next (({ s with input := rest } : State).abandonWord P w n) := by
  simp only [State.runInput, hinput, hready, if_true]

/-- The machine at the moment `RST` cuts the word `w` after its first `n` line steps, before the power-on sequence (R263; log 7). -/
def State.cutShort (s : State) (P : Params) (w : CmdWord) (n : Nat) : State :=
  (s.accept.runSteps P ((s.wordSteps P w).take n)).losePartialFrames (s.wordSteps P w)

variable (s) (P : Params) (w : CmdWord) (n : Nat)

theorem State.abandonWord_eq_powerOn : s.abandonWord P w n = (s.cutShort P w n).powerOn P := by
  have haccept : s.accept.wordSteps P w = s.wordSteps P w :=
    State.wordSteps_congr (s := s.accept) (t := s) rfl rfl rfl w
  rw [State.abandonWord, haccept, State.cutShort]

theorem State.trace_cutShort : (s.cutShort P w n).trace = (s.wordSteps P w).take n :=
  s.accept.trace_runSteps P ((s.wordSteps P w).take n)

theorem State.input_cutShort : (s.cutShort P w n).input = s.input := by
  obtain ⟨-, hinput, -⟩ := s.accept.runSteps_other P ((s.wordSteps P w).take n)
  exact hinput

/-- A partial frame is lost in the shift stages; the output frames are those of the steps made (R263, U8). -/
theorem State.q_cutShort (b : BankId) :
    ((s.cutShort P w n).att b).q = ((s.accept.runSteps P ((s.wordSteps P w).take n)).att b).q := by
  simp only [State.cutShort, State.losePartialFrames, State.att, Vector.getElem_ofFn]
  split <;> rfl

/-- After a cut every register of the block has its power-on value, and the steps made are on record (R240, R241). -/
theorem State.abandonWord_spec :
    s.abandonWord P w n = { State.resetWith P with
      attached := (s.cutShort P w n).attached, input := s.input, dataIn := (s.cutShort P w n).dataIn
      adcIn := (s.cutShort P w n).adcIn, freeCount := (s.cutShort P w n).freeCount, trace := (s.wordSteps P w).take n } := by
  rw [State.abandonWord_eq_powerOn, State.powerOn_spec, State.input_cutShort, State.trace_cutShort]

end Rst

/-- Settles O8, by `State.powerOn_spec`: the record of line steps, which the sequence keeps, is already empty. -/
theorem powerOnSequenceGivesResetState : Obligations.PowerOnSequenceGivesResetState := by
  intro s rest hinput
  rw [step, State.runInput_rst Config.hw hinput, State.powerOn_spec]
  rfl

/-- The step of a word that `RST` cuts short (R240). -/
theorem step_commandCut {s : State} {w : CmdWord} {n : Nat} {rest : List HostInput} (hready : s.cmdReady = true)
    (hinput : s.input = .commandCut w n :: rest) :
    step s = .next (({ s with input := rest } : State).abandonWord Config.hw w n) :=
  State.runInput_commandCut Config.hw hready hinput

/-- Settles O9, by `State.abandonWord_spec`; the word's line steps are its command's, and none for a reserved opcode. -/
theorem rstAbandonsCommand : Obligations.RstAbandonsCommand := by
  intro s w n rest hready hinput
  have hsteps : ({ s with input := rest } : State).wordSteps Config.hw w = s.wordSteps Config.hw w :=
    State.wordSteps_congr (s := { s with input := rest }) (t := s) rfl rfl rfl w
  have hstep := step_commandCut hready hinput
  rw [State.abandonWord_spec, hsteps] at hstep
  refine ⟨_, hstep, rfl, rfl, rfl, rfl, rfl, rfl, rfl, rfl, rfl, rfl, rfl, fun i hi => ?_, fun hreserved => ?_⟩
  · exact congrArg (List.take n) (State.wordSteps_of_decode_ok hi)
  · exact (congrArg (List.take n) (State.wordSteps_of_reserved hreserved)).trans List.take_nil

/-! ### The output frame while a `WRCH` runs (R131, R263) -/

/-- A line step that can raise no latch line: neither the latch line driven high nor an address presented (R125, R137). -/
def LineStep.noLatchRise : LineStep → Bool
  | .latch _ v => !v
  | .address _ _ => false
  | .setMode _ _ | .setShadow _ _ _ | .outMode _ _ | .dataOut _ _ | .sclk _ _ | .sample _ | .asample _ => true

section OutputFrame

variable (s : State) (P : Params) (b : BankId)

/-- A clock edge moves bits of a shift stage only (R131). -/
theorem State.q_driveSclk (b' : BankId) (v : Level) : ((s.driveSclk b' v).att b).q = (s.att b).q := by
  by_cases hb : b = b'
  · subst hb
    simp only [State.driveSclk]
    split
    next =>
      unfold State.shiftIn
      split
      next => rw [State.att_setAtt_self, State.att_setBank]
      next =>
        refine (congrArg Attached.q (State.att_setAtt_self _ b _)).trans ?_
        rw [State.att_setBank]
    next => rfl
  · rw [s.att_driveSclk_of_ne b v hb]

theorem State.q_drive {st : LineStep} (hst : st.noLatchRise = true) : ((s.drive P st).att b).q = (s.att b).q := by
  have happly : ((s.apply P st).att b).q = (s.att b).q := by
    cases st with
    | setMode | setShadow | outMode | dataOut => rfl
    | latch x v =>
      obtain rfl : v = false := by simpa [LineStep.noLatchRise] using hst
      rw [State.apply, State.driveAddr_latch_low, State.att_putAddr]
    | address x c => cases hst
    | sclk b' v => exact s.q_driveSclk b b' v
    | sample => exact congrArg Attached.q (s.att_sampleTaken b)
    | asample => exact congrArg Attached.q (s.att_asampleTaken b)
  exact happly

/-- Line steps that raise no latch line leave every output frame alone (R131). -/
theorem State.q_runSteps {l : List LineStep} (hl : ∀ st ∈ l, st.noLatchRise = true) : ((s.runSteps P l).att b).q = (s.att b).q := by
  induction l generalizing s with
  | nil => rfl
  | cons st l ih =>
    rw [List.forall_mem_cons] at hl
    rw [State.runSteps_cons, ih _ hl.2, State.q_drive s P b hl.1]

variable (c : ChanId) (v : Level) (sh : Frame)

/-- No step of a `WRCH` before its 52nd raises a latch line (R125, R136). -/
theorem noLatchRise_take_wrchSteps : ∀ st ∈ (wrchSteps P b c v sh).take 51, st.noLatchRise = true := by
  simp [wrchSteps, shiftFrame, frameOrder, shiftBit, LineStep.noLatchRise]

/-- No step of a `WRCH` after its 52nd raises a latch line (R125, R136). -/
theorem noLatchRise_drop_wrchSteps : ∀ st ∈ (wrchSteps P b c v sh).drop 52, st.noLatchRise = true := by
  simp [wrchSteps, shiftFrame, frameOrder, shiftBit, LineStep.noLatchRise]

/-- Before the latch edge of a `WRCH` the output frame is the old one (R263). -/
theorem State.q_runSteps_wrchSteps_of_lt {n : Nat} (hn : n < 52) :
    ((s.runSteps P ((wrchSteps P b c v sh).take n)).att b).q = (s.att b).q := by
  have hfirst : (wrchSteps P b c v sh).take n = ((wrchSteps P b c v sh).take 51).take n := by
    rw [List.take_take, Nat.min_eq_left (Nat.le_of_lt_succ hn)]
  rw [hfirst]
  exact s.q_runSteps P b fun st hst => noLatchRise_take_wrchSteps P b c v sh st (List.mem_of_mem_take hst)

/-- From the latch edge of a `WRCH` on the output frame is the one it ends with (R263). -/
theorem State.q_runSteps_wrchSteps_of_le {n : Nat} (hn : 52 ≤ n) :
    ((s.runSteps P ((wrchSteps P b c v (s.bank b).shadow).take n)).att b).q = ((s.wrch P b c v).att b).q := by
  obtain ⟨m, rfl⟩ := Nat.exists_eq_add_of_le hn
  have hlater := noLatchRise_drop_wrchSteps P b c v (s.bank b).shadow
  unfold State.wrch
  generalize wrchSteps P b c v (s.bank b).shadow = l at hlater ⊢
  calc ((s.runSteps P (l.take (52 + m))).att b).q
      = (((s.runSteps P (l.take 52)).runSteps P ((l.drop 52).take m)).att b).q := by rw [List.take_add, State.runSteps_append]
    _ = ((s.runSteps P (l.take 52)).att b).q := State.q_runSteps _ P b fun st hst => hlater st (List.mem_of_mem_take hst)
    _ = (((s.runSteps P (l.take 52)).runSteps P (l.drop 52)).att b).q := (State.q_runSteps _ P b hlater).symm
    _ = ((s.runSteps P l).att b).q := by rw [← State.runSteps_append, List.take_append_drop]

end OutputFrame

/-- A `WRCH` on a driven bank whose clock is low ends with the new frame in `Q` (R123, R132 (ii)). -/
theorem State.q_wrch_of_driven {s : State} {P : Params} {b : BankId} (hclock : (s.bank b).sclk = false)
    (hmode : (s.bank b).mode = .digitalOut) (c : ChanId) (v : Level) :
    ((s.wrch P b c v).att b).q = setBit (s.bank b).shadow c.val v := by
  obtain ⟨hsr, hq⟩ := Synced.of_wrch (P := P) hclock hmode c v
  rw [hq, hsr, State.bank_wrch, if_pos rfl]

theorem lineSteps_wrch (P : Params) (s : State) (b : BankId) (c : ChanId) (v : Nat) :
    lineSteps P (.wrch (bankNumber b) c.val v) s = wrchSteps P b c (v != 0) (s.bank b).shadow := by
  simp only [lineSteps, bankOperand_number, chanOperand_val, boolOperand]

/-- Settles O10: the steps made have the latch edge among them or not. -/
theorem rstDuringWriteKeepsOrCommitsFrame : Obligations.RstDuringWriteKeepsOrCommitsFrame := by
  intro s w n v rest b c hready hinput hdecode hclock hmode
  refine ⟨_, step_commandCut hready hinput, ?_⟩
  generalize hstart : ({ s with input := rest } : State) = u
  have hsteps : u.wordSteps Config.hw w = wrchSteps Config.hw b c (v != 0) (u.accept.bank b).shadow :=
    (State.wordSteps_of_decode_ok hdecode).trans (lineSteps_wrch Config.hw u b c v)
  have hbank : u.accept.bank b = s.bank b := by subst hstart; rfl
  have hatt : u.accept.att b = s.att b := by subst hstart; rfl
  have hq : ((u.abandonWord Config.hw w n).att b).q =
      ((u.accept.runSteps Config.hw ((wrchSteps Config.hw b c (v != 0) (u.accept.bank b).shadow).take n)).att b).q := by
    rw [← hsteps, ← State.q_cutShort, State.abandonWord_spec]
    rfl
  rw [hq]
  split
  next hn => rw [State.q_runSteps_wrchSteps_of_lt _ _ _ _ _ _ hn, hatt]
  next hn =>
    rw [State.q_runSteps_wrchSteps_of_le _ _ _ _ _ (Nat.le_of_not_lt hn),
      State.q_wrch_of_driven (by rw [hbank, hclock]) (by rw [hbank, hmode]), hbank]

end Sys2Proof.Machine
end

section
/-! PROOFS. What `RESET` leaves of the outputs, and what the first write after power-on defines (spec 70_reset_and_hazards.md R251,
R252). -/

namespace Sys2Proof.Machine

/-- An output pin has cache 0 after `RESET`, whatever its bank's mode (R173, R251). -/
theorem State.cachedValue_resetAlgorithm_of_output (s : State) (P : Params) {p : PinId} (hp : 80 ≤ p.val) :
    ((s.resetAlgorithm P).pin p).cachedValue = 0 := by
  have hanalog : ¬ p.val ≤ 15 := by omega
  rw [State.pin_resetAlgorithm, resetPin_eq, if_neg hanalog, if_pos hp]

/-- Settles O23: the reset algorithm writes no bank record, line or attached bank. -/
theorem resetKeepsOutputsButClearsTheirCache : Obligations.ResetKeepsOutputsButClearsTheirCache := fun s =>
  ⟨s.resetAlgorithm Config.hw, rfl, s.banks_resetAlgorithm _, s.attached_resetAlgorithm _, s.addrP_resetAlgorithm _,
    s.addrS_resetAlgorithm _, fun _ hp => s.cachedValue_resetAlgorithm_of_output Config.hw hp⟩

theorem State.bank_reset (b : BankId) : State.reset.bank b = ⟨Config.bankModeInit b, 0, false, false, false⟩ := by
  simp [State.bank, State.reset, State.resetWith]

/-- The latch edge of a `WRCH` reaches the other banks of its bus: they show what their shift stages hold (R125, R131). -/
theorem State.q_wrch_of_same_bus {s : State} {P : Params} {b b' : BankId} (hclock : (s.bank b).sclk = false) (hb : b' ≠ b)
    (hbus : busOf P b' = busOf P b) (c : ChanId) (v : Level) : ((s.wrch P b c v).att b').q = (s.att b').sr := by
  obtain ⟨x, -, h⟩ := s.wrch_spec P b c v hclock
  rw [h]
  simp [State.att, State.framed, hb, hbus]

/-- In its power-on mode, which its jumper agrees with, bank 6 shows its output frame (R34, R131). -/
theorem State.channelOutput_bank6 {t : State} (hmode : (t.bank 5).mode = .digitalOut) (d : ChanId) :
    t.channelOutput Config.hw 5 d = .driven ((t.att 5).q.getLsbD d.val) := by
  have hmatch : t.jumperMatches Config.hw 5 = true := (t.jumperMatches_iff Config.hw 5).mpr (.inr hmode)
  rw [State.channelOutput_of_jumperMatches d hmatch]
  rfl

/-- Settles O41: bank 6 is driven at reset and its shadow is 0, and banks 4 and 5 share its bus. -/
theorem firstWriteDefinesAllOutputs : Obligations.FirstWriteDefinesAllOutputs := by
  intro c v
  have hclock : (State.reset.bank 5).sclk = false := by rw [State.bank_reset]
  have hmode : (State.reset.bank 5).mode = .digitalOut := by rw [State.bank_reset]; rfl
  have hshadow : (State.reset.bank 5).shadow = 0 := by rw [State.bank_reset]
  have hcommit : ∀ b : BankId, b ≠ 5 → busOf Config.hw b = busOf Config.hw 5 →
      ((State.reset.wrch Config.hw 5 c (v != 0)).att b).q = (State.reset.att b).sr := fun b hb hbus =>
    State.q_wrch_of_same_bus hclock hb hbus c (v != 0)
  refine ⟨_, exec_wrch State.reset 5 c v, fun d => ?_, hcommit 3 (by decide) rfl, hcommit 4 (by decide) rfl⟩
  rw [State.channelOutput_bank6 ((State.mode_wrch ..).trans hmode), State.q_wrch_of_driven hclock hmode, hshadow, setBit_getLsbD]
  by_cases hd : d = c
  · simp [hd, bne, Bool.beq_eq_decide_eq]
  · simp [hd, Fin.val_ne_of_ne hd]

end Sys2Proof.Machine
end
